-- ==== Sys2Proof/Word.lean ====
section
/-! DEFINITION. The word types of the Cindat 412: what the manual treats as bits. -/

namespace Sys2Proof

/-- One byte: of data, of a register, of the two-wire bus. -/
abbrev Byte := BitVec 8

/-- The 40-bit byte address an upstream request carries (R145). -/
abbrev HostAddr := BitVec 40

/-- A requester ID, 0 to 63 (R6). -/
abbrev RequesterId := BitVec 6

/-- A transaction ID, 0 to 255 (R145). -/
abbrev TransactionId := BitVec 8

/-- An epoch: 1 to 127 in a region or an operation, 0 to 127 in a tag (R23, Table 2-1). -/
abbrev Epoch := BitVec 7

/-- A region index, 0 to 15 (R1). -/
abbrev RegionId := Fin 16

/-- A transaction slot, 0 to 23 (R147). -/
abbrev SlotId := Fin 24

/-- A cache line of the Tag Cache, 0 to 31 (R95). -/
abbrev LineId := Fin 32

/-- A downstream tag, 0 to 15 (R160). -/
abbrev DownTagId := Fin 16

end Sys2Proof
end

