-- ==== Sys2Proof/Syntax.lean ====
section
/-! DEFINITION. The commands of the Cindat 412: one constructor for each row of spec/opcode_table.json. A command is a
message taken at a port, an event of a timer or a pin, a condition or byte on the two-wire bus, or an examination of a
queue by its arbiter. A mailbox command is the byte of its code on the bus (R181); its parameters stand in the parameter
registers, which earlier bytes wrote (R180). -/

namespace Sys2Proof

/-- One command of the opcode table, with the operands its message or event carries. -/
inductive Instr where
  /-- READ_REQUEST (R148, Table 9-1): a read request arrives at the upstream port; `length` is as carried. -/
  | readRequest (requester : RequesterId) (tid : TransactionId) (address : HostAddr) (length : Nat)
  /-- WRITE_REQUEST (R148, Table 9-1): a write request arrives; its length is the number of data bytes it carries. -/
  | writeRequest (requester : RequesterId) (tid : TransactionId) (address : HostAddr) (data : List Byte) (enables : List Bool)
  /-- RESPONSE_SENT (R153): the fabric takes the response at the head of the response queue. -/
  | responseSent
  /-- ADMISSION_EXAMINATION (R40): the head of the admission queue is examined. -/
  | admissionExamination
  /-- BUFFER_WAIT_EXAMINATION (R53): the buffer wait FIFO is examined. -/
  | bufferWaitExamination
  /-- ALLOCATION_EXAMINATION (R98): the head of the tag cache's allocation queue is examined. -/
  | allocationExamination
  /-- RETRY_TIMER_EXPIRY (R105): the retry timer of a cache line expires. -/
  | retryTimerExpiry (line : LineId)
  /-- FLUSH (R109): the byte 0x13. -/
  | flush
  /-- PACING_TIMER_EXPIRY (R126): the scrub's pacing timer expires. -/
  | pacingTimerExpiry
  /-- FORMAT (R116): the byte 0x0D. -/
  | format
  /-- SCRUB (R117): the byte 0x0E. -/
  | scrub
  /-- REBLANK (R118): the byte 0x0F. -/
  | reblank
  /-- CANCEL SWEEP (R120): the byte 0x10. -/
  | cancelSweep
  /-- SET PACING (R121): the byte 0x11. -/
  | setPacing
  /-- QUERY SWEEP (R122): the byte 0x12. -/
  | querySweep
  /-- DEFINE REGION (R11 to R13): the byte 0x01. -/
  | defineRegion
  /-- CLEAR REGION (R14): the byte 0x02. -/
  | clearRegion
  /-- SET ACCESS (R15): the byte 0x04. -/
  | setAccess
  /-- MAP REQUESTER (R16): the byte 0x05. -/
  | mapRequester
  /-- SET UNMAPPED POLICY (R17): the byte 0x06. -/
  | setUnmappedPolicy
  /-- QUERY REGION (R18): the byte 0x03. -/
  | queryRegion
  /-- ACTIVATE (R132): the byte 0x07. -/
  | activate
  /-- DEACTIVATE (R133): the byte 0x08. -/
  | deactivate
  /-- UNFENCE (R140): the byte 0x09. -/
  | unfence
  /-- SET HEALTH (R141): the byte 0x0A. -/
  | setHealth
  /-- CLEAR HEALTH (R142): the byte 0x0B. -/
  | clearHealth
  /-- LOCK HEALTH (R143): the byte 0x0C. -/
  | lockHealth
  /-- REQUEST_GRANT (R162): the memory arbiter examines its class queues. -/
  | requestGrant
  /-- DOWNSTREAM_RESPONSE (R163, R165, Table 10-1): memory answers a downstream tag, OK or ERROR, with data for a read. -/
  | downstreamResponse (tag : DownTagId) (ok : Bool) (data : List Byte)
  /-- RESPONSE_TIMER_EXPIRY (R164): the response timer of a downstream tag expires. -/
  | responseTimerExpiry (tag : DownTagId)
  /-- QUARANTINE_TIMER_EXPIRY (R165): the quarantine timer of a downstream tag expires. -/
  | quarantineTimerExpiry (tag : DownTagId)
  /-- SET TIMEOUT (R167): the byte 0x14. -/
  | setTimeout
  /-- SET SWEEP SHARE (R168): the byte 0x15. -/
  | setSweepShare
  /-- ACK (R175): a byte written to the ACK register. -/
  | ack (value : Byte)
  /-- LOG_HEAD_READ (R187, R180): the next byte of the read transfer in progress is placed on the bus; `more` is the
  controller's acknowledge bit, true when it wants another byte. -/
  | logHeadRead (more : Bool)
  /-- SET LOG MASK (R177): the byte 0x16. -/
  | setLogMask
  /-- SET ALERT MASK (R178): the byte 0x17. -/
  | setAlertMask
  /-- CLEAR LOG OVERFLOW (R179): the byte 0x18. -/
  | clearLogOverflow
  /-- UNKNOWN_COMMAND (R181): a command code that names no command. -/
  | unknownCommand (code : Byte)
  /-- MAILBOX_OVERRUN (R184): a command code written while the mailbox is BUSY. -/
  | mailboxOverrun (code : Byte)
  /-- STATUS_WRITE (R184): a byte written to the mailbox status register. -/
  | statusWrite (value : Byte)
  /-- REGISTER_WRITE (R180): a byte written to a parameter register, a read-only register or an empty offset. -/
  | registerWrite (value : Byte)
  /-- RESET ENGINE (R186): the byte 0x19. -/
  | resetEngine
  /-- FRST_ASSERTED (R155). -/
  | frstAsserted
  /-- FRST_RELEASED (R156). -/
  | frstReleased
  /-- PORST_ASSERTED (R158). -/
  | porstAsserted
  /-- PORST_RELEASED (R190): `addr` is the level of the ADDR[1:0] straps, sampled at this event (R180). -/
  | porstReleased (addr : BitVec 2)
  /-- START_CONDITION (R180): a start or repeated start condition on the bus. -/
  | startCondition
  /-- STOP_CONDITION (R180). -/
  | stopCondition
  /-- TARGET_ADDRESS_BYTE (R180): the first byte of a transfer, address and direction. -/
  | targetAddressByte (value : Byte)
  /-- REGISTER_OFFSET_BYTE (R180): the byte after the address in a write transfer. -/
  | registerOffsetByte (value : Byte)
  deriving DecidableEq, Repr

end Sys2Proof
end

