-- ==== Sys2Proof/Config.lean ====
section
/-! DEFINITION. What the Cindat 412 fixes once for all its runs: the capacities of scope section 5, the identification
constants of R187, the bound on one step's chain of internal events, and the free value of the model. -/

namespace Sys2Proof.Config

/-- Upstream entries the Open Block Table may hold; the 32nd place is the sweep's (R36, R41). -/
def upstreamEntryLimit : Nat := 31

/-- Event log capacity in records (R174). -/
def logCapacity : Nat := 32

/-- Sweep job queue capacity, the running job included (R113). -/
def jobCapacity : Nat := 4

/-- DIRTY lines above which the Tag Cache writes lines back (R107). -/
def dirtyHighWater : Nat := 24

/-- Failed write-backs of a line at which it strands (R105, R106). -/
def writeBackAttempts : Nat := 3

/-- Write-back retry interval in microseconds (R105). -/
def retryInterval : Nat := 32

/-- The quarantine of a downstream tag lasts this many times its timeout value (R164). -/
def quarantineFactor : Nat := 8

/-- Bytes of one data request of a whole-block read or write (R64, R84). -/
def chunkBytes : Nat := 256

/-- Bytes of a staging buffer (R51). -/
def bufferBytes : Nat := 4096

/-- Vendor code, part code and revision of the register window (12.4.1, R187). -/
def vendorCode : Nat := 0x3A71
/-- Part code (12.4.1). -/
def partCode : Nat := 0x0412
/-- Revision (12.4.1). -/
def revision : Nat := 0x01
/-- Capability counts at offsets 0x05 to 0x0C (12.4.1). -/
def capabilities : List Nat := [16, 24, 32, 8, 32, 16, 32, 4]

/-- How many internal events (grants, begun operations, tags handed) one command may set off before the model leaves
the rest in `State.work` for the next command. It is the model's own bound (log entry 3), above what any reachable state
needs. -/
def cascadeFuel : Nat := 16384

/-- FREE VALUE (log entry 5). A byte the manual does not state: what a read of a write-only register returns (log entry 19), and
a byte that a read asked for and its OK response does not carry (R165, log entry 18). Nothing constrains it; it is applied to the
counter `State.free`, which rises at each use. -/
opaque freeByte : Nat → Byte

end Sys2Proof.Config
end

