-- ==== Sys2Proof/Machine/State.lean ====
section
/-! DEFINITION. The state of the Cindat 412: every table of the manual as plain data, unit by unit, and its value at
power-on reset. Region Unit (ch. 1, 8), Check Unit tags (ch. 2), Open Block Table (ch. 3), transaction slots with their
part records (ch. 4, 5, 9), Tag Cache (ch. 6), Sweep Unit (ch. 7), Memory Arbiter (ch. 10), Event Log (ch. 11),
Management Port (ch. 12), pins, and what the model adds of its own (outputs, free counter, work under way, queue). -/

namespace Sys2Proof.Machine

/-- Why the machine stops with a fault. It has no constructor: the manual gives every command an outcome in every state,
so no command of this model ends in a fault (log entry 2). -/
inductive Fault
  deriving DecidableEq, Repr

/-- Why a command is refused by the model (a command the PART refuses ends with a result code, in a next state). -/
inductive Refusal where
  /-- Raised by `exec` alone, for a row that has no meaning yet; no row is so left. Safe: the run stops. -/
  | notModelled (mnemonic : String)
  deriving DecidableEq, Repr

/-! ## Tags and verdicts (chapter 2) -/

/-- A block's tag (Table 2-1). -/
structure Tag where
  guard : BitVec 32
  locator : BitVec 16
  label : BitVec 8
  blank : Bool
  epoch : Epoch
  deriving DecidableEq, Repr

/-- The all-zero tag: what eight zero bytes decode to (R189). -/
def Tag.zero : Tag := ⟨0, 0, 0, false, 0⟩

/-- The Check Unit's verdict on a block (R26 to R29). -/
inductive Verdict where
  | sound | blank | stale | misplaced | foreign | corrupt
  deriving DecidableEq, Repr

/-- The found tag and the expected values of a verdict report (Table 2-2). -/
structure TagReport where
  found : Tag
  epoch : Epoch
  locator : BitVec 16
  label : BitVec 8
  deriving DecidableEq, Repr

/-! ## Region Unit (chapters 1 and 8) -/

/-- Lifecycle state of a region (1.2). -/
inductive RegionState where
  | empty | configured | online | formatting | draining | faulted
  deriving DecidableEq, Repr

/-- The tag fields checked beyond the epoch (Table 1-1). -/
structure CheckSet where
  locator : Bool
  label : Bool
  guard : Bool
  deriving DecidableEq, Repr

/-- Effect of an integrity failure on a read response (Table 1-1). -/
inductive ReadAction where
  | fail | poison | report
  deriving DecidableEq, Repr

/-- How partial writes keep the guard (Table 1-1). -/
inductive MergeMode where
  | verify | delta
  deriving DecidableEq, Repr

/-- When tag updates reach memory (Table 1-1). -/
inductive TagPolicy where
  | writeBack | writeThrough
  deriving DecidableEq, Repr

/-- Access right of a partition in a region (R7). -/
inductive Permission where
  | none | read | readWrite
  deriving DecidableEq, Repr

/-- Phase of a region's drain (R134). -/
inductive DrainPhase where
  | closing | flushing
  deriving DecidableEq, Repr

/-- A region record (Table 1-1), with the drain's own state (R133, R134). -/
structure Region where
  state : RegionState
  label : BitVec 8
  base : Nat
  size : Nat
  blockSize : Nat
  blockCount : Nat
  tagBase : Nat
  epoch : Epoch
  seed : BitVec 16
  checkSet : CheckSet
  readAction : ReadAction
  mergeMode : MergeMode
  tagPolicy : TagPolicy
  permissions : Vector Permission 8
  frontier : Nat
  fenced : Bool
  errorCount : Nat
  warnThreshold : Nat
  fenceThreshold : Nat
  fenceEnable : Bool
  warnReported : Bool
  healthLocked : Bool
  /-- The drain's phase; absent when the region is not DRAINING (R134). -/
  drainPhase : Option DrainPhase
  /-- The drain's flush request has completed, and a line of the region still FILLING is awaited (R110). -/
  drainFlushed : Bool
  /-- The drain discard count, 0 to 65535, saturating (R135), set to 0 as a drain begins (R133). DESIGN CHOICE (log entry 27): outside
  a drain, where the manual gives it no value, it is 0 until the first drain of the region as defined, then the last drain's count. -/
  drainDiscards : Nat
  deriving DecidableEq, Repr

/-- The Power-on column of Table 1-1, and no drain. DESIGN CHOICE (log entry 27): the drain discard count, which R133 sets only as a
drain begins and Table 1-1 does not list, is held as 0. -/
def Region.powerOn : Region where
  state := .empty
  label := 0
  base := 0
  size := 0
  blockSize := 512
  blockCount := 0
  tagBase := 0
  epoch := 0
  seed := 0
  checkSet := ⟨false, false, false⟩
  readAction := .fail
  mergeMode := .verify
  tagPolicy := .writeBack
  permissions := Vector.replicate 8 .none
  frontier := 0
  fenced := false
  errorCount := 0
  warnThreshold := 0
  fenceThreshold := 0
  fenceEnable := false
  warnReported := false
  healthLocked := false
  drainPhase := none
  drainFlushed := false
  drainDiscards := 0

/-- The unmapped-address policy (R8). -/
inductive UnmappedPolicy where
  | pass | deny
  deriving DecidableEq, Repr

/-- The Region Unit: region records, Requester Map (an entry `none` is UNASSIGNED) and unmapped policy. -/
structure RegionUnit where
  regions : Vector Region 16
  requesterMap : Vector (Option (Fin 8)) 64
  unmapped : UnmappedPolicy
  deriving DecidableEq, Repr

/-- Power-on: every region EMPTY, every requester UNASSIGNED, policy PASS (R1, R6, R8). -/
def RegionUnit.powerOn : RegionUnit where
  regions := Vector.replicate 16 .powerOn
  requesterMap := Vector.replicate 64 none
  unmapped := .pass

/-! ## Transaction slots and part records (chapters 4, 5, 9) -/

/-- Kind of an upstream request (Table 9-2). -/
inductive Kind where
  | read | write
  deriving DecidableEq, Repr

/-- Status of a response (Table 9-1). -/
inductive Status where
  | okay | checkFail | denied | unavailable | memoryFault | malformed
  deriving DecidableEq, Repr

/-- Outcome of a block part (Tables 4-1, 5-1). -/
inductive PartOutcome where
  | okay | checkFail | memoryFault
  deriving DecidableEq, Repr

/-- Phase of a block part: LOOKUP, READY, READING, DONE of a read (Table 4-1), and those with CHECKED, REFUSED, WRITING
and TAGGING of a write (Table 5-1). -/
inductive Phase where
  | lookup | ready | reading | checked | refused | writing | tagging | done
  deriving DecidableEq, Repr

/-- Data mode of a read part (Table 4-1). -/
inductive DataMode where
  | full | span
  deriving DecidableEq, Repr

/-- Path of a write part (Table 5-1). -/
inductive Path where
  | empty | blankFill | verify | delta
  deriving DecidableEq, Repr

/-- A part record: the fields of Table 4-1 for a read and of Table 5-1 for a write; the fields of the other table keep the values
`Part.initial` gives them (log entry 28). -/
structure Part where
  /-- The block the part lies in (R5). -/
  block : Nat
  /-- First offset of the part within the block. -/
  offset : Nat
  /-- The part's byte count. -/
  count : Nat
  /-- Where the part's bytes start in the request: 0 for part 1, part 1's count for part 2 (R5). -/
  start : Nat
  phase : Phase
  verdict : Option Verdict
  /-- The tag value the part was handed, which every evaluation of the part reads (R97, R66, R79). -/
  tag : Option Tag
  mode : Option DataMode
  path : Option Path
  readsOut : Nat
  writesOut : Nat
  outcome : PartOutcome
  poison : Bool
  faultPosted : Bool
  /-- Part data of a read. -/
  data : List Byte
  /-- Enabled span of a write: first and last enabled offset within the block (R74). -/
  span : Option (Nat × Nat)
  /-- Old span bytes of a DELTA part (R80). DESIGN CHOICE (log entry 28): held as the empty list until they are read. -/
  oldSpan : List Byte
  /-- The data tag formed at the commit, kept until the tag update and discarded when a data write fails (R83, R86).
  DESIGN CHOICE (log entry 28): after a tag update it stays until the slot is freed. -/
  newTag : Option Tag
  deriving DecidableEq, Repr

/-- Lifecycle state of a transaction slot (9.3). -/
inductive SlotState where
  | free | classified | admitting | active | passing | responding | abandoned
  deriving DecidableEq, Repr

/-- Class of a request (Table 9-2). -/
inductive SlotClass where
  | protectedWork | passThrough | refused (status : Status)
  deriving DecidableEq, Repr

/-- A response message (Table 9-1): a write response has poison clear and no data (R146). -/
structure Response where
  requester : RequesterId
  tid : TransactionId
  kind : Kind
  status : Status
  poison : Bool
  data : List Byte
  deriving DecidableEq, Repr

/-- A transaction slot (Table 9-2). -/
structure Slot where
  state : SlotState
  requester : RequesterId
  tid : TransactionId
  kind : Kind
  address : HostAddr
  length : Nat
  data : List Byte
  enables : List Bool
  cls : Option SlotClass
  region : Option RegionId
  firstBlock : Nat
  blockSpan : Nat
  epoch : Option Epoch
  committed : Bool
  parts : List Part
  abandoned : Bool
  response : Option Response
  /-- Present at the acceptance of the RESET ENGINE in progress, whose Transaction Unit part waits for it (R157). -/
  inReset : Bool
  deriving DecidableEq, Repr

/-- A FREE slot: every other field absent or clear (R147). DESIGN CHOICE (log entry 6): absent numbers are held as 0, in a slot that is
not PROTECTED too, and an absent kind as READ. -/
def Slot.powerOn : Slot where
  state := .free
  requester := 0
  tid := 0
  kind := .read
  address := 0
  length := 0
  data := []
  enables := []
  cls := none
  region := none
  firstBlock := 0
  blockSpan := 0
  epoch := none
  committed := false
  parts := []
  abandoned := false
  response := none
  inReset := false

/-- The Transaction Unit: the 24 slots and the response queue, oldest first (R147, R153). -/
structure TransactionUnit where
  slots : Vector Slot 24
  responses : List SlotId
  deriving DecidableEq, Repr

/-- Power-on: every slot FREE, no response (R158). -/
def TransactionUnit.powerOn : TransactionUnit where
  slots := Vector.replicate 24 .powerOn
  responses := []

/-! ## Open Block Table (chapter 3) -/

/-- An operation: an upstream read or write named by its slot, or the sweep (Table 3-1, note 1). -/
inductive OpId where
  | slot (i : SlotId) | sweep
  deriving DecidableEq, Repr

/-- Mode in which a block is held or waited for (R37). -/
inductive Mode where
  | shared | exclusive
  deriving DecidableEq, Repr

/-- A block entry (Table 3-1): each holder is kept with its mode; the waiter list is oldest first. -/
structure Entry where
  region : RegionId
  block : Nat
  holders : List (OpId × Mode)
  waiters : List (OpId × Mode)
  deriving DecidableEq, Repr

/-- A transaction staging buffer: free, or assigned to one block part of one upstream operation (R51). -/
structure Buffer where
  owner : Option (SlotId × Nat)
  bytes : List Byte
  deriving DecidableEq, Repr

/-- A free buffer of 4096 bytes. DESIGN CHOICE (log entry 6): its contents are zeros at power-on, and one that returns to the pool keeps
its bytes. -/
def Buffer.powerOn : Buffer := ⟨none, List.replicate Config.bufferBytes 0⟩

/-- The sweep's staging buffer (R54). -/
structure SweepBuffer where
  assigned : Bool
  bytes : List Byte
  deriving DecidableEq, Repr

/-- The Open Block Table with its admission queue, buffer wait FIFO and buffer pool. -/
structure OpenBlockTable where
  entries : List Entry
  /-- Admission queue, head first (R39). -/
  admission : List SlotId
  /-- Buffer wait FIFO: waiting operations with their counts, head first (R53). -/
  bufferWait : List (SlotId × Nat)
  buffers : Vector Buffer 8
  sweepBuffer : SweepBuffer
  deriving DecidableEq, Repr

/-- Power-on: no entry, empty queues, all nine buffers free (R56). -/
def OpenBlockTable.powerOn : OpenBlockTable where
  entries := []
  admission := []
  bufferWait := []
  buffers := Vector.replicate 8 .powerOn
  sweepBuffer := ⟨false, List.replicate Config.bufferBytes 0⟩

/-! ## Tag Cache (chapter 6) -/

/-- State of a cache line (6.2). -/
inductive LineState where
  | invalid | filling | clean | dirty | cleaning | stranded
  deriving DecidableEq, Repr

/-- A write-through tag write deferred to the end of a write-back: the tag's position, and the operation part that made
the update (R102). -/
structure Deferred where
  position : Fin 8
  maker : OpId
  part : Nat
  deriving DecidableEq, Repr

/-- A cache line (Table 6-1). The pin count is the length of `pinners`, the operations that have pinned the line and not
dropped their pin (R96). The LRU rank is the line's place in `TagCache.lru`. A running retry timer is held as the
microseconds it was started with. -/
structure Line where
  key : Option (RegionId × Nat)
  tags : Vector Tag 8
  state : LineState
  pinners : List OpId
  waiters : List (OpId × Nat)
  redirty : Bool
  attempts : Nat
  retryTimer : Option Nat
  reserved : Bool
  through : Nat
  deferred : List Deferred
  throughFault : Bool
  deriving DecidableEq, Repr

/-- The Power-on column of Table 6-1. DESIGN CHOICE (log entry 6): the tags of an INVALID line, and of a FILLING one, are zeros. -/
def Line.powerOn : Line where
  key := none
  tags := Vector.replicate 8 .zero
  state := .invalid
  pinners := []
  waiters := []
  redirty := false
  attempts := 0
  retryTimer := none
  reserved := false
  through := 0
  deferred := []
  throughFault := false

/-- A key of the allocation queue with the parts waiting for it, oldest first (R98). -/
structure AllocKey where
  region : RegionId
  line : Nat
  waiters : List (OpId × Nat)
  deriving DecidableEq, Repr

/-- Who made a flush request (R108). -/
inductive FlushMaker where
  | command | job | drain (region : RegionId)
  deriving DecidableEq, Repr

/-- A flush request (R108); scope `none` is all lines. -/
structure FlushRequest where
  maker : FlushMaker
  scope : Option RegionId
  keys : List (RegionId × Nat)
  discarded : Nat
  deriving DecidableEq, Repr

/-- The Tag Cache: lines, LRU ranking (rank 1 first), allocation queue, flush request table. -/
structure TagCache where
  lines : Vector Line 32
  lru : List LineId
  alloc : List AllocKey
  flushes : List FlushRequest
  deriving DecidableEq, Repr

/-- Power-on: every line INVALID, no rank, empty queue and table (R95). -/
def TagCache.powerOn : TagCache where
  lines := Vector.replicate 32 .powerOn
  lru := []
  alloc := []
  flushes := []

/-! ## Sweep Unit (chapter 7) -/

/-- Kind of a sweep job (Table 7-1). -/
inductive JobKind where
  | format | scrub | reblank
  deriving DecidableEq, Repr

/-- State of a sweep job (7.2). -/
inductive JobState where
  | queued | running | finishing
  deriving DecidableEq, Repr

/-- Step of a RUNNING job (Table 7-1). -/
inductive JobStep where
  | none | waiting | working | pacing
  deriving DecidableEq, Repr

/-- A job record (Table 7-1). -/
structure Job where
  id : BitVec 8
  kind : JobKind
  region : RegionId
  first : Nat
  count : Nat
  /-- Format epoch, of a FORMAT job only. -/
  formatEpoch : Option Epoch
  position : Nat
  state : JobState
  step : JobStep
  cancelRequested : Bool
  done : Nat
  skipped : Nat
  errors : Nat
  deriving DecidableEq, Repr

/-- What the running job keeps about the block it works: its captured epoch and tag value (R123), the data reads not yet
completed, and whether one of them has failed, its MEMORY_READ posted (R125). -/
structure BlockWork where
  epoch : Epoch
  tag : Option Tag
  readsOut : Nat
  failed : Bool
  deriving DecidableEq, Repr

/-- No block work. DESIGN CHOICE (log entry 6): the captured epoch, which R123 gives only to a block being worked, is held as 0 at
power-on and while no block is worked. -/
def BlockWork.idle : BlockWork := ⟨0, none, 0, false⟩

/-- The Sweep Unit: job queue (head first), job ID counter, pacing interval and timer, block work under way. -/
structure SweepUnit where
  jobs : List Job
  nextId : BitVec 8
  pacing : Nat
  pacingTimer : Option Nat
  work : BlockWork
  deriving DecidableEq, Repr

/-- Power-on: empty queue, counter 1, interval 100 µs, timer stopped (R113). -/
def SweepUnit.powerOn : SweepUnit where
  jobs := []
  nextId := 1
  pacing := 100
  pacingTimer := none
  work := .idle

/-! ## Memory Arbiter (chapter 10) -/

/-- Kind of a downstream request (Table 10-1). -/
inductive ReqKind where
  | dataRead | dataWrite | lineFill | lineWriteback | tagWrite
  deriving DecidableEq, Repr

/-- Class queue of a downstream request (R161). -/
inductive ReqClass where
  | tag | work | sweep
  deriving DecidableEq, Repr

/-- Where a completion is handed (Table 10-2): a part of a protected operation (with the buffer or span offset its bytes
land at), a pass-through slot, the sweep's block work (with the buffer offset), a cache line's fill or write-back, or a
write-through tag write, whose line is `none` once the line has been discarded (R106). -/
inductive Issuer where
  | part (slot : SlotId) (part : Nat) (landing : Nat)
  | passThrough (slot : SlotId)
  | sweepRead (landing : Nat)
  | line (line : LineId)
  | tagWrite (line : Option LineId) (maker : OpId) (part : Nat)
  deriving DecidableEq, Repr

/-- The record key of a downstream request (Table 10-2). -/
structure RecordKey where
  region : Option RegionId
  block : Option Nat
  who : Option (RequesterId × TransactionId)
  tagLine : Option (RegionId × Nat)
  deriving DecidableEq, Repr

/-- A downstream request (Tables 10-1, 10-2). -/
structure Request where
  kind : ReqKind
  cls : ReqClass
  address : Nat
  length : Nat
  data : List Byte
  enables : List Bool
  issuer : Issuer
  key : RecordKey
  /-- Queued or IN_FLIGHT at the acceptance of the RESET ENGINE in progress, whose Memory Arbiter part waits for it (R169). -/
  inReset : Bool
  deriving DecidableEq, Repr

/-- State of a downstream tag (10.2.1). -/
inductive DownTagState where
  | free | inFlight | quarantined
  deriving DecidableEq, Repr

/-- A downstream tag (Table 10-2). A running timer is held as the microseconds it was started with. -/
structure DownTag where
  state : DownTagState
  request : Option Request
  timeout : Nat
  responseTimer : Option Nat
  quarantineTimer : Option Nat
  deriving DecidableEq, Repr

/-- A FREE tag: no request, both timers stopped (R160). DESIGN CHOICE (log entry 25): its timeout value, which the manual gives only
for a granted request, is held as 0. -/
def DownTag.powerOn : DownTag := ⟨.free, none, 0, none, none⟩

/-- The Memory Arbiter: tags, class queues (head first), sweep-share counter, share, response timeout. -/
structure MemoryArbiter where
  tags : Vector DownTag 16
  tagQueue : List Request
  workQueue : List Request
  sweepQueue : List Request
  shareCounter : Nat
  share : Nat
  timeout : Nat
  deriving DecidableEq, Repr

/-- Power-on: all tags FREE, queues empty, counter 0, share 8, timeout 128 µs (R169). -/
def MemoryArbiter.powerOn : MemoryArbiter where
  tags := Vector.replicate 16 .powerOn
  tagQueue := []
  workQueue := []
  sweepQueue := []
  shareCounter := 0
  share := 8
  timeout := 128

/-! ## Event Log (chapter 11) -/

/-- The 21 record kinds, in the order of Table 11-3 (12.4.2). -/
inductive RecordKind where
  | stale | misplaced | foreign | corrupt | mergeRefused
  | memoryRead | memoryWrite | tagRead | tagWriteRetry | tagsDiscarded | timeout | lateResponse
  | denied | unavailable | malformed
  | sweepDone | sweepCancelled
  | healthWarn | regionFenced | regionFaulted
  | mailboxOverrun
  deriving DecidableEq, Repr

/-- Source of a record (Table 11-2). -/
inductive Source where
  | transaction | sweep | tagCache | downstream | management
  deriving DecidableEq, Repr

/-- The job fields of a sweep record (Table 11-2). -/
structure JobFields where
  id : BitVec 8
  kind : JobKind
  done : Nat
  skipped : Nat
  errors : Nat
  deriving DecidableEq, Repr

/-- A log record (Table 11-2); the poster leaves the sequence number and repeat count to the log (R171). -/
structure Record where
  seq : BitVec 16
  kind : RecordKind
  source : Source
  repeatCount : Nat
  region : Option RegionId
  block : Option Nat
  who : Option (RequesterId × TransactionId)
  underlying : Option RecordKind
  tags : Option TagReport
  expectedGuard : Option (BitVec 32)
  job : Option JobFields
  discarded : Option Nat
  tagLine : Option (RegionId × Nat)
  attempt : Option Nat
  deriving DecidableEq, Repr

/-- The log mask: whether each access kind is taken in (R172). -/
structure LogMask where
  denied : Bool
  unavailable : Bool
  malformed : Bool
  deriving DecidableEq, Repr

/-- The Event Log (Table 11-1); the alert mask's settings 0 to 20 are the kinds, 21 is overflow. -/
structure EventLog where
  log : List Record
  seq : BitVec 16
  dropped : Nat
  overflow : Bool
  logMask : LogMask
  alertMask : Vector Bool 22
  /-- ALERT# is asserted (driven low). -/
  alert : Bool
  deriving DecidableEq, Repr

/-- The Power-on column of Table 11-1. -/
def EventLog.powerOn : EventLog where
  log := []
  seq := 0
  dropped := 0
  overflow := false
  logMask := ⟨false, false, false⟩
  alertMask := Vector.replicate 22 false
  alert := false

/-! ## Management Port (chapter 12) -/

/-- Where a transfer on the two-wire bus stands for this target (R180). -/
inductive BusPhase where
  /-- No transfer in progress: a start condition is awaited. -/
  | idle
  /-- A start condition was taken: the address byte is awaited. -/
  | address
  /-- The transfer names another address and is ignored. -/
  | ignored
  /-- A write transfer: the register offset is awaited. -/
  | offset
  /-- A write transfer: data bytes are written at the offset. -/
  | writing
  /-- A read transfer: bytes are placed from the offset. -/
  | reading
  /-- A read transfer whose last byte was left unacknowledged. -/
  | readEnded
  deriving DecidableEq, Repr

/-- State of the mailbox (12.2). -/
inductive MailboxState where
  | idle | busy | done
  deriving DecidableEq, Repr

/-- Result code of the mailbox (R182). -/
inductive ResultCode where
  | noResult | doneOk | donePartial | refusedState | refusedParam | refusedConflict | refusedLocked | queueFull
  deriving DecidableEq, Repr

/-- A command handed to its owner: its code and its copy of the parameter registers (R181). -/
structure Command where
  code : Byte
  params : Vector Byte 28
  deriving DecidableEq, Repr

/-- The long command whose work keeps the mailbox BUSY (R182); RESET ENGINE keeps whether a drain that has ended
discarded a line (R144). -/
inductive LongCommand where
  | flush
  | deactivate (region : RegionId)
  | resetEngine (discarded : Bool)
  deriving DecidableEq, Repr

/-- The Management Port. -/
structure ManagementPort where
  strap : BitVec 2
  phase : BusPhase
  offset : Byte
  mailbox : MailboxState
  overrun : Bool
  result : ResultCode
  params : Vector Byte 28
  results : Vector Byte 128
  /-- The command in progress. -/
  command : Option Command
  /-- The long command in progress. -/
  long : Option LongCommand
  /-- The log-head window as taken by the read transfer in progress (R187). -/
  window : Option (List Byte)
  deriving DecidableEq, Repr

/-- Power-on (R185, R180), with the strap sampled. -/
def ManagementPort.powerOn (addr : BitVec 2) : ManagementPort where
  strap := addr
  phase := .idle
  offset := 0
  mailbox := .idle
  overrun := false
  result := .noResult
  params := Vector.replicate 28 0
  results := Vector.replicate 128 0
  command := none
  long := none
  window := none

/-! ## Pins, outputs, and the model's own state -/

/-- The reset pins: true while asserted (R190). -/
structure Pins where
  porst : Bool
  frst : Bool
  deriving DecidableEq, Repr

/-- A message sent at the downstream port (Table 10-1). -/
structure DownMessage where
  tag : DownTagId
  write : Bool
  address : Nat
  length : Nat
  data : List Byte
  enables : List Bool
  deriving DecidableEq, Repr

/-- What the part puts on the two-wire bus: the acknowledge bit of a byte written to it, or a byte it places (R180). -/
inductive BusOut where
  | ackBit (acknowledged : Bool)
  | byte (value : Byte)
  deriving DecidableEq, Repr

/-- The model's own record of what the ports have sent, oldest first (log entry 4). -/
structure Outputs where
  upstream : List Response
  downstream : List DownMessage
  bus : List BusOut
  deriving DecidableEq, Repr

/-- An internal event that a command sets off and that is taken within the same step (log entry 3). -/
inductive Task where
  /-- The grant rule is applied to an entry (R45). -/
  | grant (region : RegionId) (block : Nat)
  /-- An operation that holds its blocks begins its work (R46, R123). -/
  | beginWork (op : OpId)
  /-- A part is handed its tag value (R60, R75, R123). -/
  | handTag (op : OpId) (part : Nat) (tag : Tag)
  /-- A part is told that the fill it waited on failed (R100). -/
  | fillFailed (op : OpId) (part : Nat)
  /-- An entry of the region was freed, or its drain begins: the drain looks at its entry count (R50, R134). -/
  | drainCheck (region : RegionId)
  deriving DecidableEq, Repr

/-- The machine. -/
structure State where
  tu : TransactionUnit
  ru : RegionUnit
  obt : OpenBlockTable
  tc : TagCache
  su : SweepUnit
  ma : MemoryArbiter
  el : EventLog
  mp : ManagementPort
  pins : Pins
  /-- Model's own: what the ports have sent. -/
  out : Outputs
  /-- Model's own: the counter the free value `Config.freeByte` is applied to. -/
  free : Nat
  /-- Model's own: internal events still to be taken; empty between steps of every reachable state. -/
  work : List Task
  /-- The commands that wait, first in, first out. -/
  pending : List Instr
  deriving DecidableEq, Repr

/-- The machine right after power-on reset, PORST# and FRST# released, the ADDR straps low (log entry 6). -/
def State.reset : State where
  tu := .powerOn
  ru := .powerOn
  obt := .powerOn
  tc := .powerOn
  su := .powerOn
  ma := .powerOn
  el := .powerOn
  mp := .powerOn 0
  pins := ⟨false, false⟩
  out := ⟨[], [], []⟩
  free := 0
  work := []
  pending := []

end Sys2Proof.Machine
end

