-- ==== Sys2Proof/Machine/Ops.lean ====
section
/-! DEFINITION. Named operations over the state: one setter a unit, one accessor and update for each indexed table, byte
and number conversions, and the end of a mailbox command. Every meaning is built from these. -/

namespace Sys2Proof.Machine

/-! ## Fixed tables -/

/-- Entry `i` of a fixed table. -/
def vget {α : Type} {n : Nat} (v : Vector α n) (i : Fin n) : α := v[i.val]'i.isLt

/-- The table with entry `i` replaced. -/
def vset {α : Type} {n : Nat} (v : Vector α n) (i : Fin n) (x : α) : Vector α n := v.set i.val x i.isLt

/-- The index `k` names, when it is one of the `n` entries. -/
def index? (n k : Nat) : Option (Fin n) := if h : k < n then some ⟨k, h⟩ else none

/-! ## Bytes and numbers (multi-byte fields least significant byte first, R180, R189) -/

/-- The `n` low bytes of a number, least significant first. -/
def leBytes : Nat → Nat → List Byte
  | 0, _ => []
  | n + 1, v => BitVec.ofNat 8 v :: leBytes n (v / 256)

/-- The number a list of bytes spells, least significant first. -/
def leNat : List Byte → Nat
  | [] => 0
  | b :: bs => b.toNat + 256 * leNat bs

/-- `n` bytes of a list from an offset. -/
def slice (off n : Nat) (bs : List Byte) : List Byte := (bs.drop off).take n

/-- `new` laid over `bs` from an offset. -/
def overlay (off : Nat) (new bs : List Byte) : List Byte := bs.take off ++ new ++ bs.drop (off + new.length)

/-- A register block with `new` written from an offset; bytes outside it are left as they were. -/
def writeAt {n : Nat} (off : Nat) (new : List Byte) (v : Vector Byte n) : Vector Byte n :=
  Vector.ofFn fun i => if off ≤ i.val then (new[i.val - off]?).getD (vget v i) else vget v i

/-- A Bool as a bit. -/
def bit (b : Bool) : Nat := if b then 1 else 0

/-- A count raised by one, saturating at 65535. -/
def saturate (n : Nat) : Nat := if n < 65535 then n + 1 else n

/-! ## Units of the state -/

/-- `s` with its Transaction Unit replaced. -/
def State.withTu (s : State) (x : TransactionUnit) : State := { s with tu := x }
/-- `s` with its Region Unit replaced. -/
def State.withRu (s : State) (x : RegionUnit) : State := { s with ru := x }
/-- `s` with its Open Block Table replaced. -/
def State.withObt (s : State) (x : OpenBlockTable) : State := { s with obt := x }
/-- `s` with its Tag Cache replaced. -/
def State.withTc (s : State) (x : TagCache) : State := { s with tc := x }
/-- `s` with its Sweep Unit replaced. -/
def State.withSu (s : State) (x : SweepUnit) : State := { s with su := x }
/-- `s` with its Memory Arbiter replaced. -/
def State.withMa (s : State) (x : MemoryArbiter) : State := { s with ma := x }
/-- `s` with its Event Log replaced. -/
def State.withEl (s : State) (x : EventLog) : State := { s with el := x }
/-- `s` with its Management Port replaced. -/
def State.withMp (s : State) (x : ManagementPort) : State := { s with mp := x }
/-- `s` with its reset pins replaced. -/
def State.withPins (s : State) (x : Pins) : State := { s with pins := x }
/-- `s` with its outputs replaced. -/
def State.withOut (s : State) (x : Outputs) : State := { s with out := x }
/-- `s` with its free counter replaced. -/
def State.withFree (s : State) (x : Nat) : State := { s with free := x }
/-- `s` with its internal events replaced. -/
def State.withWork (s : State) (x : List Task) : State := { s with work := x }
/-- `s` with its queue of commands replaced. -/
def State.withPending (s : State) (x : List Instr) : State := { s with pending := x }

/-- `s` with internal events added behind those it holds. -/
def State.push (s : State) (ts : List Task) : State := s.withWork (s.work ++ ts)

/-! ## Tables -/

/-- A region record. -/
def State.region (s : State) (r : RegionId) : Region := vget s.ru.regions r

/-- `s` with a region record changed. -/
def State.updRegion (s : State) (r : RegionId) (f : Region → Region) : State :=
  s.withRu { s.ru with regions := vset s.ru.regions r (f (s.region r)) }

/-- A transaction slot. -/
def State.slot (s : State) (i : SlotId) : Slot := vget s.tu.slots i

/-- `s` with a slot changed. -/
def State.updSlot (s : State) (i : SlotId) (f : Slot → Slot) : State :=
  s.withTu { s.tu with slots := vset s.tu.slots i (f (s.slot i)) }

/-- Part `k` of a slot changed. -/
def Slot.updPart (k : Nat) (f : Part → Part) (sl : Slot) : Slot := { sl with parts := sl.parts.modify k f }

/-- `s` with part `k` of a slot changed. -/
def State.updPart (s : State) (i : SlotId) (k : Nat) (f : Part → Part) : State := s.updSlot i (Slot.updPart k f)

/-- The region a slot is classified to. -/
def Slot.regionId (sl : Slot) : RegionId := sl.region.getD 0

/-- The requester and transaction ID of a slot's request. -/
def Slot.who (sl : Slot) : RequesterId × TransactionId := (sl.requester, sl.tid)

/-- A cache line. -/
def State.line (s : State) (l : LineId) : Line := vget s.tc.lines l

/-- `s` with a cache line changed. -/
def State.updLine (s : State) (l : LineId) (f : Line → Line) : State :=
  s.withTc { s.tc with lines := vset s.tc.lines l (f (s.line l)) }

/-- A downstream tag. -/
def State.downTag (s : State) (t : DownTagId) : DownTag := vget s.ma.tags t

/-- `s` with a downstream tag replaced. -/
def State.setDownTag (s : State) (t : DownTagId) (x : DownTag) : State :=
  s.withMa { s.ma with tags := vset s.ma.tags t x }

/-- `s` with its sweep block work replaced. -/
def State.setBlockWork (s : State) (w : BlockWork) : State := s.withSu { s.su with work := w }

/-! ## The mailbox -/

/-- The owner ends the command: the mailbox goes to DONE with its result (12.2, R181, R182). -/
def finishCommand (code : ResultCode) (s : State) : State :=
  s.withMp { s.mp with mailbox := .done, result := code, command := none, long := none }

/-- Result registers written from an offset (R188). -/
def writeResults (off : Nat) (bytes : List Byte) (s : State) : State :=
  s.withMp { s.mp with results := writeAt off bytes s.mp.results }

/-- A long command is accepted: the mailbox stays BUSY until its work ends (R182). -/
def startLong (c : LongCommand) (s : State) : State := s.withMp { s.mp with long := some c }

end Sys2Proof.Machine
end

