-- ==== Sys2Proof/Machine/CheckUnit.lean ====
section
/-! DEFINITION. Block tags and the Check Unit (chapter 2): the guard CRC, the tag layout in memory, locators and epochs, the
tag and data evaluations of the verdict order, the verdict report and the delta rule. -/

namespace Sys2Proof.Machine

/-! ## The guard (R21) -/

/-- One bit fed to the CRC register (R21, step 3). -/
def crcBit (reg : BitVec 32) (b : Bool) : BitVec 32 :=
  if reg.getLsbD 0 != b then (reg >>> 1) ^^^ 0x82F63B78#32 else reg >>> 1

/-- One byte fed to the CRC register, least significant bit first (R21, step 2). -/
def crcByte (reg : BitVec 32) (b : Byte) : BitVec 32 :=
  (List.range 8).foldl (fun r k => crcBit r (b.getLsbD k)) reg

/-- The CRC of a sequence of bytes: preset to all ones, complemented at the end (R21, steps 1 and 4). -/
def crc (bytes : List Byte) : BitVec 32 := bytes.foldl crcByte 0xFFFFFFFF#32 ^^^ 0xFFFFFFFF#32

/-! ## Tags -/

/-- The locator of a block (R3). -/
def locatorOf (g : Region) (block : Nat) : BitVec 16 := BitVec.ofNat 16 block + g.seed

/-- The epoch after an epoch: 1 to 127, and 1 after 127 (R23). -/
def nextEpoch (e : Epoch) : Epoch := if e = 127 then 1 else e + 1

/-- The data tag a write forms for a block (R20, R83). -/
def dataTag (g : Region) (block : Nat) (guard : BitVec 32) (e : Epoch) : Tag :=
  ⟨guard, locatorOf g block, g.label, false, e⟩

/-- The blank tag FORMAT and REBLANK write for a block (R20). -/
def blankTag (g : Region) (block : Nat) (e : Epoch) : Tag := ⟨0, locatorOf g block, g.label, true, e⟩

/-- The eight bytes of a tag in memory (R189). -/
def encodeTag (t : Tag) : List Byte :=
  leBytes 4 t.guard.toNat ++ leBytes 2 t.locator.toNat ++ [t.label, BitVec.ofNat 8 (128 * bit t.blank + t.epoch.toNat)]

/-- The tag eight bytes of memory spell (R189). -/
def decodeTag (bs : List Byte) : Tag where
  guard := BitVec.ofNat 32 (leNat (slice 0 4 bs))
  locator := BitVec.ofNat 16 (leNat (slice 4 2 bs))
  label := bs.getD 6 0
  blank := (bs.getD 7 0).getLsbD 7
  epoch := BitVec.ofNat 7 (bs.getD 7 0).toNat

/-- The 64 bytes of a tag line (R189). -/
def encodeTags (ts : Vector Tag 8) : List Byte := ts.toList.flatMap encodeTag

/-- The eight tags 64 bytes spell, in ascending block order (R189). -/
def decodeTags (bs : List Byte) : Vector Tag 8 := Vector.ofFn fun i => decodeTag (slice (8 * i.val) 8 bs)

/-! ## The verdict order (R26 to R29) -/

/-- Steps 1 to 4 of the verdict order, on the tag alone (R26, R27, R28). `captured` is the operation's captured epoch. -/
def tagEvaluation (g : Region) (captured : Epoch) (block : Nat) (t : Tag) : Verdict :=
  if t.epoch ≠ captured then
    if captured = g.epoch ∧ g.frontier ≤ block then .blank else .stale
  else if g.checkSet.locator ∧ t.locator ≠ locatorOf g block then .misplaced
  else if g.checkSet.label ∧ t.label ≠ g.label then .foreign
  else if t.blank then .blank
  else .sound

/-- Step 5, on the block's bytes (R29). -/
def dataEvaluation (t : Tag) (bytes : List Byte) : Verdict := if crc bytes = t.guard then .sound else .corrupt

/-- The four integrity failures (R30). -/
def Verdict.isFailure : Verdict → Bool
  | .sound | .blank => false
  | .stale | .misplaced | .foreign | .corrupt => true

/-- The record kind equal to an integrity failure (R62). -/
def Verdict.recordKind : Verdict → RecordKind
  | .sound | .blank | .stale => .stale
  | .misplaced => .misplaced
  | .foreign => .foreign
  | .corrupt => .corrupt

/-- Found tag and expected values of a verdict report (R30, Table 2-2). -/
def tagReport (g : Region) (captured : Epoch) (block : Nat) (t : Tag) : TagReport :=
  ⟨t, captured, locatorOf g block, g.label⟩

/-! ## The delta rule (R32) -/

/-- The `B` bytes of a block that is zero but at the given offsets. -/
def sparseBlock (B : Nat) (bytes : List (Nat × Byte)) : List Byte :=
  bytes.foldl (fun acc p => overlay p.1 [p.2] acc) (List.replicate B 0)

/-- The delta guard, from the stored guard, the block size and, for each enabled byte, its offset with its old and its new
value (R32). The bytes that are not supplied stand as zeros on both sides, where they cancel. -/
def deltaGuard (guard : BitVec 32) (B : Nat) (old new : List (Nat × Byte)) : BitVec 32 :=
  guard ^^^ crc (sparseBlock B old) ^^^ crc (sparseBlock B new)

/-- The syndrome of a block: stored guard XOR the CRC over its bytes (R31). The part does not hold it. -/
def syndrome (t : Tag) (bytes : List Byte) : BitVec 32 := t.guard ^^^ crc bytes

end Sys2Proof.Machine
end

