-- ==== Sys2Proof/Machine/EventLog.lean ====
section
/-! DEFINITION. The Event Log's own operations (chapter 11): taking a record in, ACK, the alert line, and the records the other
units post. -/

namespace Sys2Proof.Machine

/-- A kind's number, in the order of the alert mask (12.4.2, 12.4.3). -/
def RecordKind.number : RecordKind → Fin 22
  | .stale => 0 | .misplaced => 1 | .foreign => 2 | .corrupt => 3 | .mergeRefused => 4
  | .memoryRead => 5 | .memoryWrite => 6 | .tagRead => 7 | .tagWriteRetry => 8 | .tagsDiscarded => 9
  | .timeout => 10 | .lateResponse => 11
  | .denied => 12 | .unavailable => 13 | .malformed => 14
  | .sweepDone => 15 | .sweepCancelled => 16
  | .healthWarn => 17 | .regionFenced => 18 | .regionFaulted => 19
  | .mailboxOverrun => 20

/-- The condition under which ALERT# is asserted (R176). -/
def EventLog.condition (e : EventLog) : Bool :=
  e.log.any (fun r => vget e.alertMask r.kind.number) || (e.overflow && vget e.alertMask 21)

/-- The alert condition is taken afresh (R176). -/
def EventLog.refresh (e : EventLog) : EventLog := { e with alert := e.condition }

/-- Whether a record of a kind is taken in: an access kind only when its setting in the log mask is on (R172). -/
def EventLog.takes (e : EventLog) : RecordKind → Bool
  | .denied => e.logMask.denied
  | .unavailable => e.logMask.unavailable
  | .malformed => e.logMask.malformed
  | .stale | .misplaced | .foreign | .corrupt | .mergeRefused | .memoryRead | .memoryWrite | .tagRead | .tagWriteRetry
  | .tagsDiscarded | .timeout | .lateResponse | .sweepDone | .sweepCancelled | .healthWarn | .regionFenced
  | .regionFaulted | .mailboxOverrun => true

/-- Whether a record matches the tail: kind, source, region index and block index equal (R173). -/
def Record.matches (a b : Record) : Bool :=
  a.kind == b.kind && a.source == b.source && a.region == b.region && a.block == b.block

/-- A repeat count raised by one, saturating at 255 (R173). -/
def saturateRepeat (n : Nat) : Nat := if n < 255 then n + 1 else n

/-- The log with its tail changed. -/
def changeTail (f : Record → Record) : List Record → List Record
  | [] => []
  | [r] => [f r]
  | r :: rs => r :: changeTail f rs

/-- A record is merged into the tail (R173). -/
def EventLog.merge (e : EventLog) : EventLog :=
  { e with log := changeTail (fun r => { r with repeatCount := saturateRepeat r.repeatCount }) e.log }

/-- A record is appended with the next sequence number (R174). -/
def EventLog.append (e : EventLog) (r : Record) : EventLog :=
  EventLog.refresh { e with log := e.log ++ [{ r with seq := e.seq, repeatCount := 1 }], seq := e.seq + 1 }

/-- A record is dropped because the log is full (R174). -/
def EventLog.drop (e : EventLog) : EventLog :=
  EventLog.refresh { e with dropped := saturate e.dropped, overflow := true }

/-- One offer of a record: filtered by the log mask, merged into the tail, appended or dropped (R172 to R174). -/
def EventLog.offer (e : EventLog) (r : Record) : EventLog :=
  if !e.takes r.kind then e
  else if e.log.getLast?.any (Record.matches r) then e.merge
  else if e.log.length < Config.logCapacity then e.append r
  else e.drop

/-- A write to the ACK register: the head leaves; an empty log ignores it (R175). -/
def EventLog.acknowledge (e : EventLog) : EventLog :=
  match e.log with
  | [] => e
  | _ :: rest => EventLog.refresh { e with log := rest }

/-- A record is offered to the log. -/
def offer (r : Record) (s : State) : State := s.withEl (s.el.offer r)

/-! ## Records as their posters form them (Table 11-3) -/

/-- A record of a kind and source with no optional field. -/
def Record.plain (k : RecordKind) (src : Source) : Record where
  seq := 0
  kind := k
  source := src
  repeatCount := 1
  region := none
  block := none
  who := none
  underlying := none
  tags := none
  expectedGuard := none
  job := none
  discarded := none
  tagLine := none
  attempt := none

/-- A record about a block of a region. -/
def Record.ofBlock (k : RecordKind) (src : Source) (r : RegionId) (block : Nat) : Record :=
  { Record.plain k src with region := some r, block := some block }

/-- A TAG_CACHE record about a tag line: block index 8L and tag-line key (R100, R105, R106). -/
def Record.ofLine (k : RecordKind) (r : RegionId) (line : Nat) : Record :=
  { Record.ofBlock k .tagCache r (8 * line) with tagLine := some (r, line) }

/-- The expected guard a record of a verdict carries: the CRC computed, for CORRUPT only (R30). -/
def guardFor (v : Verdict) (bytes : List Byte) : Option (BitVec 32) := if v = .corrupt then some (crc bytes) else none

/-- The record of an integrity failure (R62, R125). -/
def integrityRecord (v : Verdict) (src : Source) (r : RegionId) (block : Nat) (who : Option (RequesterId × TransactionId))
    (rep : TagReport) (bytes : List Byte) : Record :=
  { Record.ofBlock v.recordKind src r block with who := who, tags := some rep, expectedGuard := guardFor v bytes }

/-- The MERGE_REFUSED record of a write (R77). -/
def mergeRefusedRecord (v : Verdict) (r : RegionId) (block : Nat) (who : RequesterId × TransactionId) (rep : TagReport)
    (bytes : List Byte) : Record :=
  { Record.ofBlock .mergeRefused .transaction r block with
    who := some who, underlying := some v.recordKind, tags := some rep, expectedGuard := guardFor v bytes }

/-- A memory record of a protected part (R65, R81, R86). -/
def partRecord (k : RecordKind) (r : RegionId) (block : Nat) (who : RequesterId × TransactionId) : Record :=
  { Record.ofBlock k .transaction r block with who := some who }

/-- A memory record of a pass-through request: no region and no block (R152). -/
def passRecord (k : RecordKind) (who : RequesterId × TransactionId) : Record :=
  { Record.plain k .transaction with who := some who }

/-- A DOWNSTREAM record carrying a tag's record key (R164, R165). -/
def downstreamRecord (k : RecordKind) (key : RecordKey) : Record :=
  { Record.plain k .downstream with region := key.region, block := key.block, who := key.who, tagLine := key.tagLine }

/-- The record of a job's end; `discarded` for the SWEEP_DONE of a FORMAT or REBLANK job (R128, R129). -/
def jobRecord (k : RecordKind) (j : Job) (discarded : Option Nat) : Record :=
  { Record.ofBlock k .sweep j.region j.position with
    job := some ⟨j.id, j.kind, j.done, j.skipped, j.errors⟩, discarded := discarded }

end Sys2Proof.Machine
end

