-- ==== Sys2Proof/Machine/MemoryPort.lean ====
section
/-! DEFINITION. The Memory Arbiter's own operations (chapter 10): appending to the class queues, the grant of one request, the
examination of the queues, and the taking of a response or an expiry at a tag. Handing a completion to its issuer is in
Completion.lean. -/

namespace Sys2Proof.Machine

/-- A record key with no field. -/
def RecordKey.none : RecordKey := ⟨.none, .none, .none, .none⟩

/-- A request joins the tail of its class (R161). -/
def MemoryArbiter.append (m : MemoryArbiter) (q : Request) : MemoryArbiter :=
  match q.cls with
  | .tag => { m with tagQueue := m.tagQueue ++ [q] }
  | .work => { m with workQueue := m.workQueue ++ [q] }
  | .sweep => { m with sweepQueue := m.sweepQueue ++ [q] }

/-- A request is appended to its class (R161). -/
def appendRequest (q : Request) (s : State) : State := s.withMa (s.ma.append q)

/-- Requests are appended in order. -/
def appendRequests (qs : List Request) (s : State) : State := qs.foldl (fun s q => appendRequest q s) s

/-- A read of a class. -/
def readRequestOf (k : ReqKind) (c : ReqClass) (address length : Nat) (issuer : Issuer) (key : RecordKey) : Request :=
  ⟨k, c, address, length, [], [], issuer, key, false⟩

/-- A write of a class. -/
def writeRequestOf (k : ReqKind) (c : ReqClass) (address : Nat) (data : List Byte) (enables : List Bool) (issuer : Issuer)
    (key : RecordKey) : Request :=
  ⟨k, c, address, data.length, data, enables, issuer, key, false⟩

/-- Whether a request is a write (Table 10-1). -/
def ReqKind.isWrite : ReqKind → Bool
  | .dataWrite | .lineWriteback | .tagWrite => true
  | .dataRead | .lineFill => false

/-- Every request of the arbiter changed: those queued and those carried by tags. -/
def MemoryArbiter.mapRequests (f : Request → Request) (m : MemoryArbiter) : MemoryArbiter :=
  { m with
    tagQueue := m.tagQueue.map f
    workQueue := m.workQueue.map f
    sweepQueue := m.sweepQueue.map f
    tags := m.tags.map fun t => { t with request := t.request.map f } }

/-- A request's issuer once a line has been discarded: its tag writes no longer name the line (R106). -/
def detachIssuer (l : LineId) : Issuer → Issuer
  | .tagWrite (some l') maker part => if l' = l then .tagWrite none maker part else .tagWrite (some l') maker part
  | i => i

/-- The tag writes of a discarded line complete to their issuers without changing any line (R106). -/
def detachLine (l : LineId) (s : State) : State :=
  s.withMa (s.ma.mapRequests fun q => { q with issuer := detachIssuer l q.issuer })

/-! ## Grants (R162) -/

/-- The lowest-numbered FREE tag. -/
def MemoryArbiter.freeTag (m : MemoryArbiter) : Option DownTagId :=
  (List.finRange 16).find? fun t => (vget m.tags t).state == .free

/-- The class order of R162: the request granted next, and the arbiter without it, its sweep-share counter moved. -/
def MemoryArbiter.next (m : MemoryArbiter) : Option (Request × MemoryArbiter) :=
  match m.tagQueue with
  | q :: rest => some (q, { m with tagQueue := rest })
  | [] =>
    match m.sweepQueue, m.workQueue with
    | [], [] => none
    | q :: rest, [] => some (q, { m with sweepQueue := rest, shareCounter := 0 })
    | [], w :: ws => some (w, { m with workQueue := ws })
    | q :: rest, w :: ws =>
      if m.share ≤ m.shareCounter then some (q, { m with sweepQueue := rest, shareCounter := 0 })
      else some (w, { m with workQueue := ws, shareCounter := m.shareCounter + 1 })

/-- The message a granted request is sent as (R159). -/
def messageOf (t : DownTagId) (q : Request) : DownMessage :=
  ⟨t, q.kind.isWrite, q.address, q.length, q.data, q.enables⟩

/-- A tag carrying a request just granted, its response timer started (R163). -/
def grantedTag (timeout : Nat) (q : Request) : DownTag := ⟨.inFlight, some q, timeout, some timeout, none⟩

/-- One grant: the request becomes IN_FLIGHT on the tag and is sent. -/
def grantTo (t : DownTagId) (q : Request) (m : MemoryArbiter) (s : State) : State :=
  (s.withMa { m with tags := vset m.tags t (grantedTag m.timeout q) }).withOut
    { s.out with downstream := s.out.downstream ++ [messageOf t q] }

/-- The examination of the queues, over at most `n` tags (R162). -/
def grantRequests : Nat → State → State
  | 0, s => s
  | n + 1, s =>
    match s.ma.freeTag with
    | none => s
    | some t =>
      match s.ma.next with
      | none => s
      | some (q, m) => grantRequests n (grantTo t q m s)

/-- REQUEST_GRANT (R162): one examination of the class queues. Each grant takes a FREE tag, so 16 rounds are enough. -/
def execRequestGrant (s : State) : Host.Outcome State Fault Refusal := .next (grantRequests 16 s)

end Sys2Proof.Machine
end

