-- ==== Sys2Proof/Machine/OpenBlocks.lean ====
section
/-! DEFINITION. The Open Block Table's own operations (chapter 3): entries, joining, the grant rule, leaving (release and
removal), and the staging buffer pool. -/

namespace Sys2Proof.Machine

/-! ## Entries (R35 to R38) -/

/-- Whether an entry's block key is (r, b). -/
def Entry.isFor (r : RegionId) (b : Nat) (e : Entry) : Bool := e.region == r && e.block == b

/-- Whether an operation is an upstream one. -/
def OpId.isUpstream : OpId → Bool
  | .slot _ => true
  | .sweep => false

/-- An upstream entry (R36). -/
def Entry.isUpstream (e : Entry) : Bool := e.holders.any (·.1.isUpstream) || e.waiters.any (·.1.isUpstream)

/-- Whether an operation holds an entry. -/
def Entry.heldBy (op : OpId) (e : Entry) : Bool := e.holders.any (·.1 == op)

/-- Whether an operation stands in an entry. -/
def Entry.has (op : OpId) (e : Entry) : Bool := e.heldBy op || e.waiters.any (·.1 == op)

/-- The entry of a block, if it has one. -/
def OpenBlockTable.entry (o : OpenBlockTable) (r : RegionId) (b : Nat) : Option Entry := o.entries.find? (Entry.isFor r b)

/-- U, the number of upstream entries (R36). -/
def OpenBlockTable.upstream (o : OpenBlockTable) : Nat := o.entries.countP Entry.isUpstream

/-- The number of entries that name a region (R50). -/
def OpenBlockTable.entriesOf (o : OpenBlockTable) (r : RegionId) : Nat := o.entries.countP (·.region == r)

/-- `s` with its entries replaced. -/
def State.withEntries (s : State) (es : List Entry) : State := s.withObt { s.obt with entries := es }

/-- A pair is appended at the tail of a block's waiter list, its entry created when it has none (R42, R47). -/
def joinEntries (op : OpId) (m : Mode) (r : RegionId) (b : Nat) (es : List Entry) : List Entry :=
  if es.any (Entry.isFor r b) then
    es.map fun e => if e.isFor r b then { e with waiters := e.waiters ++ [(op, m)] } else e
  else es ++ [⟨r, b, [], [(op, m)]⟩]

/-- An operation joins a block's waiter list, and the grant rule is applied to it (R42, R46, R47). -/
def joinBlock (op : OpId) (m : Mode) (r : RegionId) (b : Nat) (s : State) : State :=
  (s.withEntries (joinEntries op m r b s.obt.entries)).push [.grant r b]

/-- The grant rule on one entry: the entry after it and the operations granted (R45). -/
def Entry.grant (e : Entry) : Entry × List OpId :=
  match e.waiters with
  | [] => (e, [])
  | (op, .exclusive) :: rest =>
    if e.holders.isEmpty then ({ e with holders := [(op, .exclusive)], waiters := rest }, [op]) else (e, [])
  | (_, .shared) :: _ =>
    if e.holders.any (·.2 == .exclusive) then (e, [])
    else
      ({ e with holders := e.holders ++ e.waiters.takeWhile (·.2 == .shared), waiters := e.waiters.dropWhile (·.2 == .shared) },
        (e.waiters.takeWhile (·.2 == .shared)).map (·.1))

/-- Whether a slot's operation holds every block it spans (R46). -/
def holdsAll (s : State) (i : SlotId) : Bool :=
  (s.slot i).parts.all fun p => (s.obt.entry (s.slot i).regionId p.block).any (Entry.heldBy (.slot i))

/-- The running job's step is set. -/
def setStep (st : JobStep) (s : State) : State :=
  match s.su.jobs with
  | [] => s
  | j :: rest => s.withSu { s.su with jobs := { j with step := st } :: rest }

/-- An operation has been granted a block: it begins its work when it holds every block it spans (R46); a granted job is
WORKING from this event on (R115). -/
def granted (s : State) (op : OpId) : State :=
  match op with
  | .slot i => if holdsAll s i then s.push [.beginWork op] else s
  | .sweep => (setStep .working s).push [.beginWork op]

/-- The grant rule is applied to the entry of a block (R45, R46). -/
def applyGrant (r : RegionId) (b : Nat) (s : State) : State :=
  match s.obt.entry r b with
  | none => s
  | some e =>
    (e.grant.2).foldl granted
      (s.withEntries (s.obt.entries.map fun x => if x.isFor r b then e.grant.1 else x))

/-- An entry without an operation. -/
def Entry.without (op : OpId) (e : Entry) : Entry :=
  { e with holders := e.holders.filter (·.1 != op), waiters := e.waiters.filter (·.1 != op) }

/-- An entry with neither holder nor waiter is freed (R35). -/
def Entry.occupied (e : Entry) : Bool := !e.holders.isEmpty || !e.waiters.isEmpty

/-- The internal event an entry left by an operation sets off: the grant rule when the entry remains (R46), a look at the
region's drain when it is freed (R50). -/
def leaveTask (op : OpId) (e : Entry) : Task :=
  if (e.without op).occupied then .grant e.region e.block else .drainCheck e.region

/-- An operation leaves every holder set and waiter list it stands in, at one event; entries left empty are freed (R48, R49). -/
def leaveBlocks (op : OpId) (s : State) : State :=
  (s.withEntries ((s.obt.entries.map (Entry.without op)).filter Entry.occupied)).push
    ((s.obt.entries.filter (Entry.has op)).map (leaveTask op))

/-! ## Staging buffers (R51 to R54) -/

/-- The transaction buffers that are free. -/
def OpenBlockTable.freeBuffers (o : OpenBlockTable) : List (Fin 8) :=
  (List.finRange 8).filter fun k => (vget o.buffers k).owner.isNone

/-- The buffer assigned to a part. -/
def OpenBlockTable.bufferOf (o : OpenBlockTable) (i : SlotId) (k : Nat) : Option (Fin 8) :=
  (List.finRange 8).find? fun b => (vget o.buffers b).owner == some (i, k)

/-- A transaction buffer changed. -/
def State.updBuffer (s : State) (b : Fin 8) (f : Buffer → Buffer) : State :=
  s.withObt { s.obt with buffers := vset s.obt.buffers b (f (vget s.obt.buffers b)) }

/-- The lowest-numbered free buffer is assigned to a part. -/
def assignBuffer (i : SlotId) (s : State) (k : Nat) : State :=
  match s.obt.freeBuffers with
  | [] => s
  | b :: _ => s.updBuffer b fun x => { x with owner := some (i, k) }

/-- Bytes are stored in a part's buffer at an offset. -/
def storeInBuffer (i : SlotId) (k off : Nat) (bytes : List Byte) (s : State) : State :=
  match s.obt.bufferOf i k with
  | none => s
  | some b => s.updBuffer b fun x => { x with bytes := overlay off bytes x.bytes }

/-- The first `B` bytes of a part's buffer. -/
def bufferBlock (s : State) (i : SlotId) (k B : Nat) : List Byte :=
  match s.obt.bufferOf i k with
  | none => []
  | some b => (vget s.obt.buffers b).bytes.take B

/-- A buffer returned when it is a slot's. -/
def Buffer.release (i : SlotId) (b : Buffer) : Buffer :=
  match b.owner with
  | some (j, _) => if j = i then { b with owner := none } else b
  | none => b

/-- An operation's buffers return to the pool, and it leaves the buffer wait FIFO (R52, R53, R54). -/
def returnBuffers (op : OpId) (s : State) : State :=
  match op with
  | .slot i =>
    s.withObt { s.obt with
      buffers := s.obt.buffers.map (Buffer.release i), bufferWait := s.obt.bufferWait.filter (·.1 != i) }
  | .sweep => s.withObt { s.obt with sweepBuffer := { s.obt.sweepBuffer with assigned := false } }

end Sys2Proof.Machine
end

