-- ==== Sys2Proof/Machine/Operands.lean ====
section
/-! DEFINITION. The operands of commands: the geometry that turns a request's address and length into a region, blocks and parts
(R2 to R5, R8, R9, R74), and the fields of the mailbox parameter blocks (12.4.2). -/

namespace Sys2Proof.Machine

/-! ## Geometry (R2 to R4) -/

/-- The size T of the tag area of `n` blocks: 8 bytes a block, rounded up to a multiple of 64 (R4). -/
def tagAreaBytes (n : Nat) : Nat := (8 * n + 63) / 64 * 64

/-- The tag-area size T of a region (R4). -/
def Region.tagBytes (g : Region) : Nat := tagAreaBytes g.blockCount

/-- Whether two ranges, each a first address and a byte count, share an address. -/
def overlaps (a n b m : Nat) : Bool := decide (a < b + m) && decide (b < a + n)

/-- Whether a region is defined, that is in any state but EMPTY (1.2). -/
def Region.isDefined (g : Region) : Bool := g.state != .empty

/-- Whether an address lies in a region's data range (R2). -/
def Region.covers (g : Region) (a : Nat) : Bool := g.isDefined && decide (g.base ≤ a) && decide (a < g.base + g.size)

/-- Whether any of `n` bytes from an address lies in a region's tag area (R8). -/
def Region.tagAreaTouched (g : Region) (a n : Nat) : Bool := g.isDefined && overlaps a n g.tagBase g.tagBytes

/-- The block an address of the data range lies in (R2). -/
def Region.blockOf (g : Region) (a : Nat) : Nat := (a - g.base) / g.blockSize

/-- The offset of an address within its block (R2). -/
def Region.offsetOf (g : Region) (a : Nat) : Nat := (a - g.base) % g.blockSize

/-- The host address of an offset within a block (R2). -/
def Region.blockAddress (g : Region) (block offset : Nat) : Nat := g.base + block * g.blockSize + offset

/-- The address of a tag line (R4). -/
def Region.lineAddress (g : Region) (line : Nat) : Nat := g.tagBase + 64 * line

/-- The address of a block's tag (R4). -/
def Region.tagAddress (g : Region) (block : Nat) : Nat := g.tagBase + 8 * block

/-- The tag line of a block (R4). -/
def lineOfBlock (block : Nat) : Nat := block / 8

/-- The position of a block's tag within its line (R4). -/
def positionOf (block : Nat) : Fin 8 := ⟨block % 8, Nat.mod_lt _ (by decide)⟩

/-- The regions, in index order. -/
def allRegions : List RegionId := List.finRange 16

/-- The slots, in order. -/
def allSlots : List SlotId := List.finRange 24

/-- The cache lines, in order. -/
def allLines : List LineId := List.finRange 32

/-- The region whose data range holds an address (R9 step 2). Data ranges never overlap (R12). -/
def State.regionAt (s : State) (a : Nat) : Option RegionId := allRegions.find? fun r => (s.region r).covers a

/-- Of two regions whose tag areas a request touches, the one whose tag area holds its lower byte (R150). -/
def lowerTagArea (s : State) (a : Nat) (best : Option RegionId) (r : RegionId) : Option RegionId :=
  match best with
  | none => some r
  | some q => if max a (s.region r).tagBase < max a (s.region q).tagBase then some r else some q

/-- The region whose tag area holds the lowest byte of a request that lies in any tag area (R9 step 1, R150). -/
def State.tagAreaAt (s : State) (a n : Nat) : Option RegionId :=
  (allRegions.filter fun r => (s.region r).tagAreaTouched a n).foldl (lowerTagArea s a) none

/-! ## Block parts (R5, R59, R73, R74) -/

/-- The enabled span of a part: its lowest and highest enabled offset within the block (R74). -/
def enabledSpan (enables : List Bool) (offset start count : Nat) : Option (Nat × Nat) :=
  match (List.range count).filter fun k => enables.getD (start + k) false with
  | [] => none
  | k :: ks => some (offset + k, offset + ks.getLastD k)

/-- A part record with the values of the Initial columns (Tables 4-1, 5-1). DESIGN CHOICE (log entry 28): the old span bytes, whose
Initial column is a dash, are held as the empty list. -/
def Part.initial (block offset count start : Nat) (enables : List Bool) : Part where
  block := block
  offset := offset
  count := count
  start := start
  phase := .lookup
  verdict := none
  tag := none
  mode := none
  path := none
  readsOut := 0
  writesOut := 0
  outcome := .okay
  poison := false
  faultPosted := false
  data := List.replicate count 0
  span := enabledSpan enables offset start count
  oldSpan := []
  newTag := none

/-- The number of blocks `n` bytes from an address touch (R5). -/
def Region.spanOf (g : Region) (a n : Nat) : Nat := g.blockOf (a + n - 1) - g.blockOf a + 1

/-- The part records of a request (R5). -/
def partsOf (g : Region) (a n : Nat) (enables : List Bool) : List Part :=
  if g.spanOf a n = 1 then [Part.initial (g.blockOf a) (g.offsetOf a) n 0 enables]
  else
    [Part.initial (g.blockOf a) (g.offsetOf a) (g.blockSize - g.offsetOf a) 0 enables,
     Part.initial (g.blockOf a + 1) 0 (n - (g.blockSize - g.offsetOf a)) (g.blockSize - g.offsetOf a) enables]

/-- The enabled bytes of a part, each with its offset within the block (R74). -/
def enabledBytes (sl : Slot) (p : Part) : List (Nat × Byte) :=
  ((List.range p.count).filter fun k => sl.enables.getD (p.start + k) false).map fun k =>
    (p.offset + k, sl.data.getD (p.start + k) 0)

/-- Whether the byte at an offset within the block is one the part's request enables. -/
def offsetEnabled (sl : Slot) (p : Part) (off : Nat) : Bool :=
  decide (p.offset ≤ off) && decide (off < p.offset + p.count) && sl.enables.getD (p.start + (off - p.offset)) false

/-- Bytes with the given ones placed at their offsets. -/
def placeBytes (new : List (Nat × Byte)) (bs : List Byte) : List Byte :=
  new.foldl (fun acc p => overlay p.1 [p.2] acc) bs

/-! ## Fields of the parameter blocks (12.4.2) -/

/-- A field of `n` bytes, least significant byte first. -/
def Command.field (c : Command) (off n : Nat) : Nat := leNat (slice off n c.params.toList)

/-- A field of one byte. -/
def Command.byteAt (c : Command) (off : Nat) : Byte := c.params.toList.getD off 0

/-- The region field, when it names one of the 16 regions. -/
def Command.regionField (c : Command) : Option RegionId := index? 16 (c.field 0 1)

/-- A setting byte: 1 on, 0 off, nothing else (R183). -/
def settingCode (n : Nat) : Option Bool :=
  match n with
  | 0 => some false
  | 1 => some true
  | _ => none

/-- A permission code (SET ACCESS). -/
def permissionCode (n : Nat) : Option Permission :=
  match n with
  | 0 => some .none
  | 1 => some .read
  | 2 => some .readWrite
  | _ => none

/-- A read action code (DEFINE REGION). -/
def readActionCode (n : Nat) : Option ReadAction :=
  match n with
  | 0 => some .fail
  | 1 => some .poison
  | 2 => some .report
  | _ => none

/-- A merge mode code (DEFINE REGION). -/
def mergeModeCode (n : Nat) : Option MergeMode :=
  match n with
  | 0 => some .verify
  | 1 => some .delta
  | _ => none

/-- A tag policy code (DEFINE REGION). -/
def tagPolicyCode (n : Nat) : Option TagPolicy :=
  match n with
  | 0 => some .writeBack
  | 1 => some .writeThrough
  | _ => none

/-- A partition code: 0 to 7, or 0xFF for UNASSIGNED (MAP REQUESTER). -/
def partitionCode (n : Nat) : Option (Option (Fin 8)) :=
  if n = 255 then some none else (index? 8 n).map some

/-- An unmapped-policy code (SET UNMAPPED POLICY). -/
def policyCode (n : Nat) : Option UnmappedPolicy :=
  match n with
  | 0 => some .pass
  | 1 => some .deny
  | _ => none

/-- A scope code: a region, or 0xFF for ALL (FLUSH). -/
def scopeCode (n : Nat) : Option (Option RegionId) :=
  if n = 255 then some none else (index? 16 n).map some

/-- The block sizes a region may have (Table 1-1). -/
def isBlockSize (n : Nat) : Bool := n == 512 || n == 1024 || n == 2048 || n == 4096

/-- The check set of DEFINE REGION: bits 0 to 2, the others ignored. -/
def checkSetOf (b : Byte) : CheckSet := ⟨b.getLsbD 0, b.getLsbD 1, b.getLsbD 2⟩

/-- Consecutive one-byte fields, each read by a code table; absent when one of them is not a listed code. -/
def Command.codes {α : Type} (c : Command) (read : Nat → Option α) (off n : Nat) : Option (List α) :=
  ((List.range n).map fun k => read (c.field (off + k) 1)).mapM id

end Sys2Proof.Machine
end

