-- ==== Sys2Proof/Machine/Flags.lean ====
section
/-! DEFINITION. The status and flag bytes of the register window, and the layouts that show state to software: mailbox status
(12.4.1), result codes (R182), the QUERY REGION and QUERY SWEEP layouts (R188), and the log-head window (12.4.3). -/

namespace Sys2Proof.Machine

/-! ## Codes -/

/-- Mailbox state code (12.4.1). -/
def MailboxState.code : MailboxState → Nat
  | .idle => 0 | .busy => 1 | .done => 2

/-- Result code (R182). -/
def ResultCode.code : ResultCode → Nat
  | .noResult => 0x00 | .doneOk => 0x01 | .donePartial => 0x02 | .refusedState => 0x10 | .refusedParam => 0x11
  | .refusedConflict => 0x12 | .refusedLocked => 0x13 | .queueFull => 0x14

/-- The mailbox status byte: bits 1 and 0 the state, bit 2 the overrun flag (12.4.1). DESIGN CHOICE (log entry 26): bits 7 to 3,
which the layout does not assign, are 0. -/
def ManagementPort.statusByte (m : ManagementPort) : Nat := m.mailbox.code + 4 * bit m.overrun

/-- Region state code (R188). -/
def RegionState.code : RegionState → Nat
  | .empty => 0 | .configured => 1 | .online => 2 | .formatting => 3 | .draining => 4 | .faulted => 5

/-- Permission code (SET ACCESS). -/
def Permission.code : Permission → Nat
  | .none => 0 | .read => 1 | .readWrite => 2

/-- Read action code (DEFINE REGION). -/
def ReadAction.code : ReadAction → Nat
  | .fail => 0 | .poison => 1 | .report => 2

/-- Merge mode code (DEFINE REGION). -/
def MergeMode.code : MergeMode → Nat
  | .verify => 0 | .delta => 1

/-- Tag policy code (DEFINE REGION). -/
def TagPolicy.code : TagPolicy → Nat
  | .writeBack => 0 | .writeThrough => 1

/-- Check set byte (DEFINE REGION). DESIGN CHOICE (log entry 26): in QUERY REGION the unassigned bits 7 to 3 are 0. -/
def CheckSet.code (c : CheckSet) : Nat := bit c.locator + 2 * bit c.label + 4 * bit c.guard

/-- Job kind code (R188, 12.4.3). -/
def JobKind.code : JobKind → Nat
  | .format => 0 | .scrub => 1 | .reblank => 2

/-- Job state code (R188). -/
def JobState.code : JobState → Nat
  | .queued => 0 | .running => 1 | .finishing => 2

/-- Job step code (R188). -/
def JobStep.code : JobStep → Nat
  | .none => 0 | .waiting => 1 | .working => 2 | .pacing => 3

/-- Record source code (12.4.3). -/
def Source.code : Source → Nat
  | .transaction => 0 | .sweep => 1 | .tagCache => 2 | .downstream => 3 | .management => 4

/-! ## QUERY REGION and QUERY SWEEP (R188) -/

/-- The flag byte of QUERY REGION: fenced, fence enable, warn-reported, health-locked (R188). DESIGN CHOICE (log entry 26): the
unassigned bits 7 to 4 are 0. -/
def Region.flagByte (g : Region) : Nat :=
  bit g.fenced + 2 * bit g.fenceEnable + 4 * bit g.warnReported + 8 * bit g.healthLocked

/-- The 54 bytes of a region's snapshot (R188). -/
def Region.snapshot (g : Region) : List Byte :=
  leBytes 1 g.state.code ++ [g.label] ++ leBytes 5 g.base ++ leBytes 5 g.size ++ leBytes 2 g.blockSize ++
    leBytes 4 g.blockCount ++ leBytes 5 g.tagBase ++ leBytes 5 g.tagBytes ++ leBytes 1 g.epoch.toNat ++
    leBytes 2 g.seed.toNat ++ leBytes 1 g.checkSet.code ++ leBytes 1 g.readAction.code ++ leBytes 1 g.mergeMode.code ++
    leBytes 1 g.tagPolicy.code ++ g.permissions.toList.flatMap (fun p => leBytes 1 p.code) ++ leBytes 4 g.frontier ++
    leBytes 1 g.flagByte ++ leBytes 2 g.errorCount ++ leBytes 2 g.warnThreshold ++ leBytes 2 g.fenceThreshold

/-- The state, step and cancel byte of a job (R188). DESIGN CHOICE (log entry 26): the unassigned bits 7 to 5 are 0. -/
def Job.stateByte (j : Job) : Nat := j.state.code + 4 * j.step.code + 16 * bit j.cancelRequested

/-- The 28 bytes of a job's group (R188). -/
def Job.snapshot (j : Job) : List Byte :=
  [j.id] ++ leBytes 1 j.kind.code ++ leBytes 1 j.region.val ++ leBytes 4 j.first ++ leBytes 4 j.count ++
    leBytes 4 j.position ++ leBytes 1 j.stateByte ++ leBytes 4 j.done ++ leBytes 4 j.skipped ++ leBytes 4 j.errors

/-- The 116 bytes of the sweep's snapshot: groups beyond the job count are zeros (R122, R188). -/
def SweepUnit.snapshot (u : SweepUnit) : List Byte :=
  leBytes 2 u.pacing ++ [u.nextId] ++ leBytes 1 u.jobs.length ++
    (u.jobs.flatMap Job.snapshot ++ List.replicate 112 0).take 112

/-! ## The log-head window (12.4.3) -/

/-- The presence bits of a record (12.4.3). DESIGN CHOICE (log entry 26): the unassigned bits 15 to 10 are 0. -/
def Record.presence (r : Record) : Nat :=
  bit r.region.isSome + 2 * bit r.block.isSome + 4 * bit r.who.isSome + 8 * bit r.underlying.isSome +
    16 * bit r.tags.isSome + 32 * bit r.expectedGuard.isSome + 64 * bit r.job.isSome + 128 * bit r.discarded.isSome +
    256 * bit r.tagLine.isSome + 512 * bit r.attempt.isSome

/-- The bytes of an optional field: zeros when it is absent (12.4.3). -/
def optBytes {α : Type} (n : Nat) (f : α → List Byte) (x : Option α) : List Byte :=
  match x with
  | none => List.replicate n 0
  | some a => f a

/-- The found tag and the expected epoch, locator and label, 12 bytes. -/
def TagReport.bytes (t : TagReport) : List Byte :=
  encodeTag t.found ++ leBytes 1 t.epoch.toNat ++ leBytes 2 t.locator.toNat ++ [t.label]

/-- The job fields, 14 bytes. -/
def JobFields.bytes (j : JobFields) : List Byte :=
  [j.id] ++ leBytes 1 j.kind.code ++ leBytes 4 j.done ++ leBytes 4 j.skipped ++ leBytes 4 j.errors

/-- Offsets 4 to 55 of the window: every field of the head record (12.4.3). -/
def Record.bytes (r : Record) : List Byte :=
  leBytes 2 r.seq.toNat ++ leBytes 1 r.kind.number.val ++ leBytes 1 r.source.code ++ leBytes 1 r.repeatCount ++
    leBytes 2 r.presence ++ optBytes 1 (fun k => leBytes 1 k.val) r.region ++ optBytes 4 (leBytes 4) r.block ++
    optBytes 2 (fun w => [BitVec.ofNat 8 w.1.toNat, w.2]) r.who ++
    optBytes 1 (fun k => leBytes 1 (RecordKind.number k).val) r.underlying ++
    optBytes 12 TagReport.bytes r.tags ++ optBytes 4 (fun g => leBytes 4 g.toNat) r.expectedGuard ++
    optBytes 14 JobFields.bytes r.job ++ optBytes 1 (leBytes 1) r.discarded ++
    optBytes 5 (fun k => leBytes 1 k.1.val ++ leBytes 4 k.2) r.tagLine ++ optBytes 1 (leBytes 1) r.attempt

/-- The 64 bytes of the log-head window; with no record held, offsets 4 to 63 are zeros (R175, 12.4.3). DESIGN CHOICE (log entry 26):
the unassigned bits 7 to 1 of the overflow byte are 0, and so are offsets 56 to 63 while a record is held. -/
def EventLog.window (e : EventLog) : List Byte :=
  leBytes 1 e.log.length ++ leBytes 1 (bit e.overflow) ++ leBytes 2 e.dropped ++ optBytes 52 Record.bytes e.log.head? ++
    List.replicate 8 0

end Sys2Proof.Machine
end

