-- ==== Sys2Proof/Machine/SweepJobs.lean ====
section
/-! DEFINITION. The Sweep Unit's queue (7.1, 7.2, 7.5): job IDs, start, join, end and cancellation of jobs. The work on a block is
in SweepWork.lean. -/

namespace Sys2Proof.Machine

/-- `s` with its job queue replaced. -/
def State.withJobs (s : State) (js : List Job) : State := s.withSu { s.su with jobs := js }

/-- The head job changed. -/
def State.updHeadJob (s : State) (f : Job → Job) : State :=
  match s.su.jobs with
  | [] => s
  | j :: rest => s.withJobs (f j :: rest)

/-! ## Job IDs (R113) -/

/-- The job ID after one: 255 is followed by 1. -/
def jobIdAfter (i : BitVec 8) : BitVec 8 := if i = 255 then 1 else i + 1

/-- The first ID from `i` on that no job of the queue holds. -/
def freeJobId : Nat → List Job → BitVec 8 → BitVec 8
  | 0, _, i => i
  | n + 1, js, i => if js.any (·.id == i) then freeJobId n js (jobIdAfter i) else i

/-- The ID the next job takes: the counter's value, past IDs still in the queue (R113). -/
def SweepUnit.idToGive (u : SweepUnit) : BitVec 8 := freeJobId (u.jobs.length + 1) u.jobs u.nextId

/-- A job record as its command creates it (R114). -/
def Job.new (id : BitVec 8) (k : JobKind) (r : RegionId) (first count : Nat) (fe : Option Epoch) : Job where
  id := id
  kind := k
  region := r
  first := first
  count := count
  formatEpoch := fe
  position := first
  state := .queued
  step := .none
  cancelRequested := false
  done := 0
  skipped := 0
  errors := 0

/-- A job is appended at the tail with the next ID, and the counter moves on (R113). -/
def SweepUnit.accept (u : SweepUnit) (k : JobKind) (r : RegionId) (first count : Nat) (fe : Option Epoch) : SweepUnit :=
  { u with
    jobs := u.jobs ++ [Job.new u.idToGive k r first count fe]
    nextId := freeJobId (u.jobs.length + 2) (u.jobs ++ [Job.new u.idToGive k r first count fe]) (jobIdAfter u.idToGive) }

/-- A job is accepted (R113). -/
def acceptJob (k : JobKind) (r : RegionId) (first count : Nat) (fe : Option Epoch) (s : State) : State :=
  s.withSu (s.su.accept k r first count fe)

/-- Whether the queue holds no fewer jobs than its capacity (R113). -/
def queueFull (s : State) : Bool := decide (Config.jobCapacity ≤ s.su.jobs.length)

/-! ## Joining and starting (R47, R115) -/

/-- The mode a job of a kind joins in (R47). -/
def JobKind.mode : JobKind → Mode
  | .scrub => .shared
  | .format | .reblank => .exclusive

/-- The running job joins the waiter list of the block at its position (R47). -/
def joinSweep (s : State) : State :=
  match s.su.jobs with
  | [] => s
  | j :: _ => joinBlock .sweep j.kind.mode j.region j.position (setStep .waiting s)

/-- A job at the queue head with no job running starts (R115). -/
def startNext (s : State) : State :=
  match s.su.jobs with
  | [] => s
  | j :: rest =>
    if j.state = .queued then joinSweep (s.withJobs ({ j with state := .running, position := j.first } :: rest)) else s

/-- The head job posts its end and leaves the queue, and the next job starts at the same event (7.2 note 1). -/
def endHeadJob (k : RecordKind) (discarded : Option Nat) (s : State) : State :=
  match s.su.jobs with
  | [] => s
  | j :: rest => startNext ((offer (jobRecord k j discarded) s).withJobs rest)

/-! ## Cancellation (R129, R130) -/

/-- A finishing job withdraws its flush request (R108, R129). -/
def withdrawJobFlush (s : State) : State :=
  s.withTc { s.tc with flushes := s.tc.flushes.filter (·.maker != .job) }

/-- The pacing timer stops. -/
def stopPacing (s : State) : State := s.withSu { s.su with pacingTimer := none }

/-- What cancelling one job does outside the queue, and whether the job stays in it (R129). -/
def cancelJob (j : Job) (s : State) : State × Bool :=
  match j.state, j.step with
  | .queued, _ => (s, false)
  | .finishing, _ => (withdrawJobFlush s, false)
  | .running, .working => (s, true)
  | .running, .pacing => (stopPacing s, false)
  | .running, .waiting => (leaveBlocks .sweep s, false)
  | .running, .none => (s, false)

/-- One job of the queue is looked at for cancellation: the jobs kept so far, and the state (R129). -/
def cancelStep (p : Job → Bool) (acc : List Job × State) (j : Job) : List Job × State :=
  if !p j then (acc.1 ++ [j], acc.2)
  else if (cancelJob j acc.2).2 then (acc.1 ++ [{ j with cancelRequested := true }], (cancelJob j acc.2).1)
  else (acc.1, offer (jobRecord .sweepCancelled j none) (cancelJob j acc.2).1)

/-- One cancel event: every job that `p` names is cancelled, and the next job starts if none runs (R129). DESIGN CHOICE (log entry
24): their records are posted in queue order, which the manual leaves open. -/
def cancelJobs (p : Job → Bool) (s : State) : State :=
  startNext ((s.su.jobs.foldl (cancelStep p) ([], s)).2.withJobs (s.su.jobs.foldl (cancelStep p) ([], s)).1)

end Sys2Proof.Machine
end

