-- ==== Sys2Proof/Machine/Regions.lean ====
section
/-! DEFINITION. What the Region Unit does at the reports of other units (chapter 8): health reports, the loss of a tag line, the
frontier, and the start and end of a drain. -/

namespace Sys2Proof.Machine

/-- Whether a region admits work (1.2). -/
def RegionState.admits : RegionState → Bool
  | .online | .formatting => true
  | .empty | .configured | .draining | .faulted => false

/-! ## Health (R138) -/

/-- Whether a report posts HEALTH_WARN, given the region with its count already raised (R138 step 2). -/
def Region.warnDue (g : Region) : Bool :=
  g.warnThreshold != 0 && decide (g.warnThreshold ≤ g.errorCount) && !g.warnReported

/-- Whether a report fences the region, given it with its count already raised (R138 step 3). -/
def Region.fenceDue (g : Region) : Bool :=
  g.state.admits && g.fenceEnable && g.fenceThreshold != 0 && decide (g.fenceThreshold ≤ g.errorCount) && !g.fenced

/-- The count raised by one, saturating (R138 step 1). -/
def Region.counted (g : Region) : Region := { g with errorCount := saturate g.errorCount }

/-- A region record after a report (R138). -/
def Region.reported (g : Region) : Region :=
  { g.counted with warnReported := g.warnReported || g.counted.warnDue, fenced := g.fenced || g.counted.fenceDue }

/-- A health record of a report (R138). -/
def healthRecord (k : RecordKind) (src : Source) (r : RegionId) (block : Nat) (who : Option (RequesterId × TransactionId)) :
    Record :=
  { Record.ofBlock k src r block with who := who }

/-- A record offered when a condition holds. -/
def offerIf (c : Bool) (r : Record) (s : State) : State := if c then offer r s else s

/-- An integrity failure is reported to the Region Unit (R138). -/
def healthReport (src : Source) (r : RegionId) (block : Nat) (who : Option (RequesterId × TransactionId)) (s : State) : State :=
  offerIf (s.region r).counted.fenceDue (healthRecord .regionFenced src r block who)
    (offerIf (s.region r).counted.warnDue (healthRecord .healthWarn src r block who) (s.updRegion r Region.reported))

/-! ## Drains (R133, R134) -/

/-- A region enters DRAINING in phase CLOSING (R133 step 1). -/
def Region.beginDrain (g : Region) : Region :=
  { g with state := .draining, drainPhase := some .closing, drainFlushed := false, drainDiscards := 0 }

/-- A region whose drain has ended (R134). DESIGN CHOICE (log entry 27): the drain discard count keeps the drain's value, which the
manual gives no more meaning. -/
def Region.endDrain (g : Region) : Region := { g with state := .configured, drainPhase := none, drainFlushed := false }

/-- A drain begins: the region is DRAINING, its jobs are cancelled, and its entry count is looked at (R133, R134). -/
def startDrain (r : RegionId) (s : State) : State :=
  (cancelJobs (·.region == r) (s.updRegion r Region.beginDrain)).push [.drainCheck r]

/-- The end of a drain is told to the long command that waits for it (R134, R144). -/
def reportDrain (r : RegionId) (discards : Nat) (s : State) : State :=
  match s.mp.long with
  | some (.deactivate q) =>
    if q = r then finishCommand (if discards = 0 then .doneOk else .donePartial) s else s
  | some (.resetEngine d) => startLong (.resetEngine (d || discards != 0)) s
  | some .flush => s
  | none => s

/-! ## A lost tag line (R135, R136) -/

/-- REGION_FAULTED, as posted with the key of the discarded line (R136). -/
def faultedRecord (r : RegionId) (line : Nat) : Record := Record.ofLine .regionFaulted r line

/-- The Tag Cache reports the discard of a line of a region (R135, R136). -/
def lineLost (r : RegionId) (line : Nat) (s : State) : State :=
  match (s.region r).state with
  | .online | .formatting =>
    cancelJobs (·.region == r) (offer (faultedRecord r line) (s.updRegion r fun g => { g with state := .faulted }))
  | .draining => s.updRegion r fun g => { g with drainDiscards := saturate g.drainDiscards }
  | .faulted | .configured | .empty => s

/-! ## The frontier (R124, R131) -/

/-- A region whose frontier the FORMAT job moves past a block (R124). -/
def Region.advance (block : Nat) (g : Region) : Region :=
  { g with
    frontier := block + 1
    state := if g.state = .formatting ∧ block + 1 = g.blockCount then .online else g.state }

end Sys2Proof.Machine
end

