-- ==== Sys2Proof/Machine/TagCache.lean ====
section
/-! DEFINITION. The Tag Cache (chapter 6): ranking, write-back and its causes, flush requests and the end of drains, lookups and
pins, tag updates, discards, and the allocation queue. Completions are in TagLines.lean. -/

namespace Sys2Proof.Machine

/-! ## Finding and ranking lines (R95) -/

/-- The line that carries a key. -/
def TagCache.find (t : TagCache) (r : RegionId) (line : Nat) : Option LineId :=
  allLines.find? fun l => (vget t.lines l).key == some (r, line)

/-- A line moves to, or joins the ranking at, rank 1 (Table 6-1 note 2). -/
def touchLine (l : LineId) (s : State) : State := s.withTc { s.tc with lru := l :: s.tc.lru.filter (· != l) }

/-- A line becomes INVALID: it loses its key and everything it held, and leaves the ranking. -/
def invalidateLine (l : LineId) (s : State) : State :=
  s.withTc { s.tc with lines := vset s.tc.lines l .powerOn, lru := s.tc.lru.filter (· != l) }

/-- Lines meeting a condition, highest rank number first. -/
def TagCache.oldestFirst (t : TagCache) (p : Line → Bool) : List LineId := t.lru.reverse.filter fun l => p (vget t.lines l)

/-- Whether no operation pins a line. -/
def Line.unpinned (l : Line) : Bool := l.pinners.isEmpty

/-- A DIRTY line is eligible for write-back when its retry timer is stopped and its through count is 0 (R103). -/
def Line.eligible (l : Line) : Bool := l.state == .dirty && l.retryTimer.isNone && l.through == 0

/-- The record key of a tag-line request (Table 10-2). -/
def lineRecordKey (r : RegionId) (line block : Nat) : RecordKey := ⟨some r, some block, none, some (r, line)⟩

/-! ## Write-back (R103, R107) -/

/-- The LINE_WRITEBACK of a line (R103). -/
def writebackRequest (s : State) (l : LineId) (r : RegionId) (line : Nat) : Request :=
  writeRequestOf .lineWriteback .tag ((s.region r).lineAddress line) (encodeTags (s.line l).tags) (List.replicate 64 true)
    (.line l) (lineRecordKey r line (8 * line))

/-- A write-back of a line is issued (R103). -/
def issueWriteback (l : LineId) (s : State) : State :=
  match (s.line l).key with
  | none => s
  | some (r, line) =>
    appendRequest (writebackRequest s l r line)
      (s.updLine l fun x => { x with state := .cleaning, redirty := false, throughFault := false })

/-- Whether a flush request lists a key (R108). -/
def TagCache.listed (t : TagCache) (key : Option (RegionId × Nat)) : Bool :=
  match key with
  | none => false
  | some k => t.flushes.any fun f => f.keys.contains k

/-- A listed line's write-back is issued when the line is DIRTY and eligible (R108). -/
def demandWriteback (l : LineId) (s : State) : State :=
  if (s.line l).eligible && s.tc.listed (s.line l).key then issueWriteback l s else s

/-- The number of DIRTY lines (R107). -/
def TagCache.dirtyCount (t : TagCache) : Nat := t.lines.toList.countP (·.state == .dirty)

/-- The high-water rule (R107). -/
def highWater (s : State) : State :=
  ((s.tc.oldestFirst fun x => x.eligible && x.unpinned).take (s.tc.dirtyCount - Config.dirtyHighWater)).foldl
    (fun s l => issueWriteback l s) s

/-- A line has become DIRTY, or eligible again: the causes that may demand its write-back are looked at (R107, R108).
DESIGN CHOICE (log entry 24): a flush request's write-back is issued first and the DIRTY lines are counted for the high-water mark
after it, an order the manual leaves open. -/
def dirtied (l : LineId) (s : State) : State := highWater (demandWriteback l s)

/-! ## Flush requests (R108) and the end of drains (R110, R134) -/

/-- Whether a line of a region is FILLING. -/
def TagCache.filling (t : TagCache) (r : RegionId) : Bool :=
  t.lines.toList.any fun l => l.state == .filling && l.key.any (·.1 == r)

/-- The CLEAN lines of a region. -/
def TagCache.cleanLines (t : TagCache) (r : RegionId) : List LineId :=
  allLines.filter fun l => (vget t.lines l).state == .clean && (vget t.lines l).key.any (·.1 == r)

/-- The drain's CLEAN lines are invalidated and the drain ends (R110, R134). -/
def endDrain (r : RegionId) (s : State) : State :=
  reportDrain r (s.region r).drainDiscards
    (((s.tc.cleanLines r).foldl (fun s l => invalidateLine l s) s).updRegion r Region.endDrain)

/-- The drain ends when its flush has completed and no line of the region is FILLING (R110). -/
def tryEndDrain (r : RegionId) (s : State) : State :=
  if (s.region r).state = .draining ∧ (s.region r).drainFlushed ∧ !s.tc.filling r then endDrain r s else s

/-- A complete flush request reports its discarded count to its maker (R108, R109, R110, R128). -/
def flushReport (m : FlushMaker) (discarded : Nat) (s : State) : State :=
  match m with
  | .command => finishCommand (if discarded = 0 then .doneOk else .donePartial) s
  | .job => endHeadJob .sweepDone (some discarded) s
  | .drain r => tryEndDrain r (s.updRegion r fun g => { g with drainFlushed := true })

/-- A request without a key; a discarded line is counted. -/
def FlushRequest.drop (key : RegionId × Nat) (discarded : Bool) (f : FlushRequest) : FlushRequest :=
  if f.keys.contains key then
    { f with keys := f.keys.filter (· != key), discarded := f.discarded + bit discarded }
  else f

/-- Complete requests leave the table and report (R108). DESIGN CHOICE (log entry 24): those complete at one event report in the
order in which they were made, which the manual leaves open. -/
def completeFlushes (s : State) : State :=
  (s.tc.flushes.filter (·.keys.isEmpty)).foldl (fun s f => flushReport f.maker f.discarded s)
    (s.withTc { s.tc with flushes := s.tc.flushes.filter fun f => !f.keys.isEmpty })

/-- A key leaves every request that lists it, its line CLEAN or discarded (R108). -/
def leaveFlushes (key : RegionId × Nat) (discarded : Bool) (s : State) : State :=
  completeFlushes (s.withTc { s.tc with flushes := s.tc.flushes.map (FlushRequest.drop key discarded) })

/-- Whether a line is one a flush request takes up, for a scope (R108). -/
def Line.flushable (scope : Option RegionId) (l : Line) : Bool :=
  (l.state == .dirty || l.state == .cleaning || l.state == .stranded) &&
    l.key.any (fun k => scope.all (· == k.1))

/-- The lines a flush request takes up, in order of line number. -/
def TagCache.flushable (t : TagCache) (scope : Option RegionId) : List LineId :=
  allLines.filter fun l => (vget t.lines l).flushable scope

/-- A flush request is made (R108); one with nothing to finish reports at once. -/
def makeFlush (m : FlushMaker) (scope : Option RegionId) (s : State) : State :=
  if (s.tc.flushable scope).isEmpty then flushReport m 0 s
  else
    (s.tc.flushable scope).foldl (fun s l => demandWriteback l s)
      (s.withTc { s.tc with
        flushes := s.tc.flushes ++ [⟨m, scope, (s.tc.flushable scope).filterMap fun l => (s.line l).key, 0⟩] })

/-- The drain of a region looks at its entry count: with none left in CLOSING, it moves to FLUSHING and asks for the flush
(R50, R134). -/
def drainCheck (r : RegionId) (s : State) : State :=
  if (s.region r).state = .draining ∧ (s.region r).drainPhase = some .closing ∧ s.obt.entriesOf r = 0 then
    makeFlush (.drain r) (some r) (s.updRegion r fun g => { g with drainPhase := some .flushing })
  else s

/-- A line becomes CLEAN: its attempts return to 0, and its key leaves the flush requests (R102, R104, R108). -/
def becomeClean (l : LineId) (s : State) : State :=
  match (s.line l).key with
  | none => s.updLine l fun x => { x with state := .clean, attempts := 0 }
  | some k => leaveFlushes k false (s.updLine l fun x => { x with state := .clean, attempts := 0 })

/-! ## Discard (R106) -/

/-- Parts waiting for a key join it in the allocation queue, at the tail when the key is not there (R97, R106). -/
def queueKey (r : RegionId) (line : Nat) (ws : List (OpId × Nat)) (s : State) : State :=
  if s.tc.alloc.any (fun k => k.region == r && k.line == line) then
    s.withTc { s.tc with
      alloc := s.tc.alloc.map fun k =>
        if k.region == r && k.line == line then { k with waiters := k.waiters ++ ws } else k }
  else s.withTc { s.tc with alloc := s.tc.alloc ++ [⟨r, line, ws⟩] }

/-- The waiting parts of a discarded line move to the allocation queue (R106 step 5). -/
def requeueWaiters (r : RegionId) (line : Nat) (ws : List (OpId × Nat)) (s : State) : State :=
  if ws.isEmpty then s else queueKey r line ws s

/-- A stranded line whose pin count is 0 is discarded (R106). -/
def discardLine (l : LineId) (s : State) : State :=
  match (s.line l).key with
  | none => s
  | some (r, line) =>
    requeueWaiters r line (s.line l).waiters
      (leaveFlushes (r, line) true
        (lineLost r line
          (offer (Record.ofLine .tagsDiscarded r line) (detachLine l (invalidateLine l s)))))

/-! ## Pins and lookups (R96, R97) -/

/-- An operation pins a line, once; a line pinned meanwhile loses its reservation (R96, R98). -/
def Line.pin (op : OpId) (l : Line) : Line :=
  { l with pinners := if l.pinners.contains op then l.pinners else l.pinners ++ [op], reserved := false }

/-- A part joins a line's wait list. -/
def Line.await (op : OpId) (part : Nat) (l : Line) : Line := { l with waiters := l.waiters ++ [(op, part)] }

/-- A lookup that finds a line is answered by the line's state (R97). -/
def lookupLine (op : OpId) (part block : Nat) (l : LineId) (s : State) : State :=
  match (s.line l).state with
  | .clean | .dirty | .cleaning =>
    ((touchLine l s).updLine l (Line.pin op)).push [.handTag op part (vget (s.line l).tags (positionOf block))]
  | .filling => (touchLine l s).updLine l fun x => (x.pin op).await op part
  | .stranded => (touchLine l s).updLine l (Line.await op part)
  | .invalid => s

/-- One part of an operation looks up the tag of a block (R97). -/
def lookupTag (op : OpId) (part : Nat) (r : RegionId) (block : Nat) (s : State) : State :=
  match s.tc.find r (lineOfBlock block) with
  | some l => lookupLine op part block l s
  | none => queueKey r (lineOfBlock block) [(op, part)] s

/-- A line without an operation's pin and waiting parts. -/
def Line.leave (op : OpId) (l : Line) : Line :=
  { l with pinners := l.pinners.filter (· != op), waiters := l.waiters.filter (·.1 != op) }

/-- A key of the allocation queue without an operation's waiting parts. -/
def AllocKey.leave (op : OpId) (k : AllocKey) : AllocKey := { k with waiters := k.waiters.filter (·.1 != op) }

/-- The stranded lines an operation alone pins, in ascending line number. DESIGN CHOICE (log entry 24): lines left unpinned at one
event are discarded in that order, which the manual leaves open. -/
def TagCache.strandedBy (t : TagCache) (op : OpId) : List LineId :=
  allLines.filter fun l =>
    (vget t.lines l).state == .stranded && (vget t.lines l).pinners.contains op && ((vget t.lines l).leave op).unpinned

/-- An operation leaves the Tag Cache's lists and drops its pins. -/
def TagCache.leave (op : OpId) (t : TagCache) : TagCache :=
  { t with
    lines := t.lines.map (Line.leave op)
    alloc := (t.alloc.map (AllocKey.leave op)).filter fun k => !k.waiters.isEmpty }

/-- An operation drops its pins and leaves the wait lists at its release; stranded lines whose last pin this was are
discarded, in the order of `strandedBy`, and the DIRTY count is looked at after them (R96, R106, R107, log entry 24). -/
def dropPins (op : OpId) (s : State) : State :=
  highWater ((s.tc.strandedBy op).foldl (fun s l => discardLine l s) (s.withTc (s.tc.leave op)))

/-! ## Tag updates and tag writes (R101, R102) -/

/-- The TAG_WRITE of one position of a line (R102). -/
def tagWriteRequest (s : State) (l : LineId) (r : RegionId) (line : Nat) (pos : Fin 8) (maker : OpId) (part : Nat) : Request :=
  writeRequestOf .tagWrite .tag ((s.region r).tagAddress (8 * line + pos.val)) (encodeTag (vget (s.line l).tags pos))
    (List.replicate 8 true) (.tagWrite (some l) maker part) (lineRecordKey r line (8 * line + pos.val))

/-- A TAG_WRITE is issued, its bytes copied from the line (R102). -/
def issueTagWrite (l : LineId) (d : Deferred) (s : State) : State :=
  match (s.line l).key with
  | none => s
  | some (r, line) => appendRequest (tagWriteRequest s l r line d.position d.maker d.part) s

/-- The tag writes deferred to the end of a write-back are issued (R102). -/
def issueDeferred (l : LineId) (s : State) : State :=
  ((s.line l).deferred.foldl (fun s d => issueTagWrite l d s) s).updLine l fun x => { x with deferred := [] }

/-- The state and redirty flag of a line after a tag update (R101). -/
def Line.update (pos : Fin 8) (t : Tag) (l : Line) : Line :=
  { l with
    tags := vset l.tags pos t
    state := if l.state = .clean then .dirty else l.state
    redirty := l.redirty || l.state == .cleaning }

/-- A tag update's TAG_WRITE in a WRITE_THROUGH region: issued, or deferred while the line is CLEANING (R102). -/
def throughWrite (l : LineId) (d : Deferred) (s : State) : State :=
  if (s.line l).state = .cleaning then
    s.updLine l fun x => { x with through := x.through + 1, deferred := x.deferred ++ [d] }
  else issueTagWrite l d (s.updLine l fun x => { x with through := x.through + 1 })

/-- The tag policy's part of a tag update (R102). -/
def followUpdate (op : OpId) (part : Nat) (r : RegionId) (block : Nat) (l : LineId) (s : State) : State :=
  match (s.region r).tagPolicy with
  | .writeThrough => throughWrite l ⟨positionOf block, op, part⟩ s
  | .writeBack => s

/-- A tag update of a block by its exclusive holder (R101, R102). DESIGN CHOICE (log entry 24): a WRITE_THROUGH region's TAG_WRITE
joins the TAG class before the high-water write-backs of other lines (R107) that the update sets off; the manual leaves that order open. -/
def tagUpdate (op : OpId) (part : Nat) (r : RegionId) (block : Nat) (t : Tag) (s : State) : State :=
  match s.tc.find r (lineOfBlock block) with
  | none => s
  | some l => dirtied l (followUpdate op part r block l (s.updLine l (Line.update (positionOf block) t)))

/-! ## Allocation (R98) -/

/-- The line the head of the allocation queue takes (R98, 1 to 3). -/
def TagCache.takeable (t : TagCache) : Option LineId :=
  ((allLines.find? fun l => (vget t.lines l).state == .invalid).or
    (allLines.find? fun l => (vget t.lines l).reserved && (vget t.lines l).state == .clean && (vget t.lines l).unpinned)).or
    (t.oldestFirst fun x => x.state == .clean && x.unpinned).head?

/-- Each operation once, in order of first standing. -/
def distinctOps (ws : List (OpId × Nat)) : List OpId :=
  ws.foldl (fun acc w => if acc.contains w.1 then acc else acc ++ [w.1]) []

/-- A line as it enters FILLING for a key (R98). DESIGN CHOICE (log entry 6): its tags, which the manual gives none of until the fill
completes (R99), are held as zeros while it is FILLING. -/
def Line.allocated (k : AllocKey) : Line :=
  { Line.powerOn with
    key := some (k.region, k.line), state := .filling, pinners := distinctOps k.waiters, waiters := k.waiters }

/-- The LINE_FILL of a key (R98). -/
def fillRequest (s : State) (l : LineId) (k : AllocKey) : Request :=
  readRequestOf .lineFill .tag ((s.region k.region).lineAddress k.line) 64 (.line l) (lineRecordKey k.region k.line (8 * k.line))

/-- A line is allocated to a key (R98). -/
def allocateLine (l : LineId) (k : AllocKey) (s : State) : State :=
  appendRequest (fillRequest s l k) (touchLine l (s.updLine l fun _ => Line.allocated k))

/-- No line can be taken and none is reserved: the oldest eligible unpinned DIRTY line is reserved and written back (R98). -/
def reserveLine (s : State) : State :=
  if s.tc.lines.toList.any (·.reserved) then s
  else
    match (s.tc.oldestFirst fun x => x.eligible && x.unpinned).head? with
    | none => s
    | some l => issueWriteback l (s.updLine l fun x => { x with reserved := true })

/-- The allocation queue is examined, at most `n` heads (R98). -/
def examineAllocation : Nat → State → State
  | 0, s => s
  | n + 1, s =>
    match s.tc.alloc with
    | [] => s
    | k :: rest =>
      match s.tc.takeable with
      | some l => examineAllocation n (allocateLine l k (s.withTc { s.tc with alloc := rest }))
      | none => reserveLine s

/-- ALLOCATION_EXAMINATION (R98). -/
def execAllocationExamination (s : State) : Host.Outcome State Fault Refusal :=
  .next (examineAllocation (s.tc.alloc.length + 1) s)

/-- The retry timer of a line expires: the line is eligible again, and a cause now demanding it issues its write-back (R105). -/
def retryExpired (l : LineId) (s : State) : State :=
  if (s.line l).retryTimer.isSome then dirtied l (s.updLine l fun x => { x with retryTimer := none }) else s

/-- RETRY_TIMER_EXPIRY (R105). -/
def execRetryTimerExpiry (l : LineId) (s : State) : Host.Outcome State Fault Refusal := .next (retryExpired l s)

end Sys2Proof.Machine
end

