-- ==== Sys2Proof/Machine/TagLines.lean ====
section
/-! DEFINITION. Completions taken by a cache line: fills (R99, R100), write-backs (R104 to R106) and the line's part of a tag write
(R102). -/

namespace Sys2Proof.Machine

/-- The block a part of an operation works on. -/
def blockOfPart (s : State) (op : OpId) (part : Nat) : Nat :=
  match op with
  | .slot i => (((s.slot i).parts[part]?).map (·.block)).getD 0
  | .sweep => ((s.su.jobs.head?).map (·.position)).getD 0

/-- A LINE_FILL completes OK: the bytes become the line's tags, and each waiting part is handed its tag (R99). -/
def fillOk (l : LineId) (r : RegionId) (data : List Byte) (s : State) : State :=
  tryEndDrain r
    ((s.updLine l fun x => { x with tags := decodeTags data, state := .clean, attempts := 0, waiters := [] }).push
      ((s.line l).waiters.map fun w =>
        .handTag w.1 w.2 (vget (decodeTags data) (positionOf (blockOfPart s w.1 w.2)))))

/-- A LINE_FILL fails: TAG_READ is posted, the line becomes INVALID and its pins are dropped, and each waiting part is told
(R100). -/
def fillFail (l : LineId) (r : RegionId) (line : Nat) (s : State) : State :=
  tryEndDrain r
    ((offer (Record.ofLine .tagRead r line) (invalidateLine l s)).push
      ((s.line l).waiters.map fun w => .fillFailed w.1 w.2))

/-- A LINE_WRITEBACK completes OK (R104). DESIGN CHOICE (log entry 24): the deferred TAG_WRITEs join the TAG class before the
high-water write-backs of other lines (R107) that a line ending DIRTY sets off; the manual leaves that order open. -/
def writebackOk (l : LineId) (s : State) : State :=
  if (s.line l).redirty then
    dirtied l ((issueDeferred l s).updLine l fun x =>
      { x with state := .dirty, redirty := false, attempts := 0, reserved := false })
  else becomeClean l (issueDeferred l s)

/-- TAG_WRITE_RETRY of a line's failed attempt (R105). -/
def retryRecord (r : RegionId) (line attempt : Nat) : Record :=
  { Record.ofLine .tagWriteRetry r line with attempt := some attempt }

/-- A line whose third write-back has failed is stranded, and discarded at once when nothing pins it (R106). -/
def strandLine (l : LineId) (s : State) : State :=
  if (s.line l).unpinned then discardLine l (s.updLine l fun x => { x with state := .stranded })
  else s.updLine l fun x => { x with state := .stranded }

/-- A LINE_WRITEBACK fails (R105). DESIGN CHOICE (log entry 24): the deferred TAG_WRITEs join the TAG class before the high-water
write-backs of other lines (R107) that a line ending DIRTY sets off; the manual leaves that order open. -/
def writebackFail (l : LineId) (r : RegionId) (line : Nat) (s : State) : State :=
  if (s.line l).attempts + 1 < Config.writeBackAttempts then
    dirtied l
      (offer (retryRecord r line ((s.line l).attempts + 1))
        ((issueDeferred l s).updLine l fun x =>
          { x with
            state := .dirty, redirty := false, attempts := x.attempts + 1, throughFault := true, reserved := false
            retryTimer := some Config.retryInterval }))
  else
    strandLine l ((issueDeferred l s).updLine l fun x =>
      { x with attempts := x.attempts + 1, throughFault := true, reserved := false })

/-- A fill or write-back of a line completes (R99, R100, R104, R105). -/
def lineDone (l : LineId) (ok : Bool) (data : List Byte) (s : State) : State :=
  match (s.line l).key, (s.line l).state with
  | some (r, line), .filling => if ok then fillOk l r data s else fillFail l r line s
  | some (r, line), .cleaning => if ok then writebackOk l s else writebackFail l r line s
  | _, _ => s

/-- A tag write of a line completes OK: its count falls, and a DIRTY line with none left and no fault becomes CLEAN (R102). -/
def lineTagWriteOk (l : LineId) (s : State) : State :=
  if (s.line l).state = .dirty ∧ (s.line l).through = 1 ∧ !(s.line l).throughFault then
    becomeClean l (s.updLine l fun x => { x with through := 0 })
  else dirtied l (s.updLine l fun x => { x with through := x.through - 1 })

/-- A tag write of a line fails: its count falls and through fault is set (R102). -/
def lineTagWriteFail (l : LineId) (s : State) : State :=
  dirtied l (s.updLine l fun x => { x with through := x.through - 1, throughFault := true })

/-- MEMORY_WRITE of a failed tag write, with the request's key (R102). -/
def tagWriteRecord (key : RecordKey) : Record :=
  { Record.plain .memoryWrite .tagCache with region := key.region, block := key.block, tagLine := key.tagLine }

/-- The Tag Cache's part of a tag write's completion; a discarded line is not changed (R102, R106). -/
def tagWriteDone (line : Option LineId) (key : RecordKey) (ok : Bool) (s : State) : State :=
  match line, ok with
  | some l, true => lineTagWriteOk l s
  | some l, false => offer (tagWriteRecord key) (lineTagWriteFail l s)
  | none, true => s
  | none, false => offer (tagWriteRecord key) s

/-! ## Release (R48) -/

/-- An operation leaves its blocks, returns its buffers and drops its pins, at one event (R48, R52, R54, R96). DESIGN CHOICE (log
entry 24): what the pins dropped set off in the Tag Cache comes before the grants at the blocks left; the manual leaves that order
open. -/
def releaseOp (op : OpId) (s : State) : State := dropPins op (returnBuffers op (leaveBlocks op s))

end Sys2Proof.Machine
end

