-- ==== Sys2Proof/Machine/Reads.lean ====
section
/-! DEFINITION. Responses and the end of an upstream operation (R153, R155), and protected reads (chapter 4): tag evaluation, buffer
request, data reads, guard check, release. -/

namespace Sys2Proof.Machine

/-! ## Responses (R146, R153) -/

/-- The response to a slot's request. -/
def Slot.answer (sl : Slot) (st : Status) (poison : Bool) (data : List Byte) : Response :=
  ⟨sl.requester, sl.tid, sl.kind, st, poison, data⟩

/-- A slot's response is formed: the slot is RESPONDING and joins the response queue (R153). -/
def respond (i : SlotId) (st : Status) (poison : Bool) (data : List Byte) (s : State) : State :=
  (s.updSlot i fun sl => { sl with state := .responding, response := some (sl.answer st poison data) }).withTu
    { (s.updSlot i fun sl => { sl with state := .responding, response := some (sl.answer st poison data) }).tu with
      responses := s.tu.responses ++ [i] }

/-- A slot becomes FREE: every field but the state is discarded (R147). -/
def freeSlot (i : SlotId) (s : State) : State := s.updSlot i fun _ => .powerOn

/-- An upstream operation ends its work: it releases, and its slot answers, or is freed when abandoned (R67, R89, R155). -/
def endOp (i : SlotId) (st : Status) (poison : Bool) (data : List Byte) (s : State) : State :=
  if (s.slot i).abandoned then freeSlot i (releaseOp (.slot i) s) else respond i st poison data (releaseOp (.slot i) s)

/-- Reads outstanding over all parts of a slot. -/
def Slot.readsOut (sl : Slot) : Nat := (sl.parts.map (·.readsOut)).foldl (· + ·) 0

/-- An uncommitted abandoned operation releases when none of its reads is outstanding (R57, R71, R92). -/
def endAbandoned (i : SlotId) (s : State) : State :=
  if (s.slot i).readsOut = 0 then endOp i .okay false [] s else s

/-- The status of a response, from the part outcomes (R68, R89). -/
def Slot.status (sl : Slot) : Status :=
  if sl.parts.any (·.outcome == .memoryFault) then .memoryFault
  else if sl.parts.any (·.outcome == .checkFail) then .checkFail
  else .okay

/-! ## Parts -/

/-- The parts of a slot with their indices. -/
def Slot.indexed (sl : Slot) : List (Part × Nat) := sl.parts.zipIdx

/-- A part of a slot. -/
def State.part (s : State) (i : SlotId) (k : Nat) : Option Part := (s.slot i).parts[k]?

/-- The region record of a slot's operation. -/
def State.slotRegion (s : State) (i : SlotId) : Region := s.region (s.slot i).regionId

/-- The captured epoch of a slot's operation. -/
def Slot.captured (sl : Slot) : Epoch := sl.epoch.getD 0

/-- The record key of a protected part's request (Table 10-2). -/
def partKey (sl : Slot) (p : Part) : RecordKey := ⟨sl.region, some p.block, some sl.who, none⟩

/-- The whole-block DATA_READs of a block, ascending, each with the buffer offset it fills (R64). -/
def blockReads (g : Region) (block : Nat) (cls : ReqClass) (issuer : Nat → Issuer) (key : RecordKey) : List Request :=
  (List.range (g.blockSize / Config.chunkBytes)).map fun k =>
    readRequestOf .dataRead cls (g.blockAddress block (Config.chunkBytes * k)) Config.chunkBytes
      (issuer (Config.chunkBytes * k)) key

/-- MEMORY_READ or MEMORY_WRITE of a part, posted once per part (R65, R81, R86). -/
def postPartFault (k : RecordKind) (i : SlotId) (part : Nat) (p : Part) (s : State) : State :=
  if p.faultPosted then s
  else
    offer (partRecord k (s.slot i).regionId p.block (s.slot i).who)
      (s.updPart i part fun p => { p with faultPosted := true })

/-- The health part and the log part of an integrity failure's report, the verdict's own record first (R62, R77). -/
def reportFailure (rec : Record) (src : Source) (r : RegionId) (block : Nat) (who : Option (RequesterId × TransactionId))
    (s : State) : State :=
  healthReport src r block who (offer rec s)

/-! ## Reads: the tag evaluation (R60, R61) -/

/-- A read part with the outcome its tag verdict and the read action give (R61). -/
def Part.judgedRead (a : ReadAction) (v : Verdict) (t : Tag) (p : Part) : Part :=
  match v, a with
  | .sound, _ => { p with verdict := some v, tag := some t, phase := .ready }
  | .blank, _ => { p with verdict := some v, tag := some t, phase := .done }
  | _, .fail => { p with verdict := some v, tag := some t, phase := .done, outcome := .checkFail }
  | _, .poison => { p with verdict := some v, tag := some t, phase := .ready, poison := true }
  | _, .report => { p with verdict := some v, tag := some t, phase := .ready }

/-- A read reports an integrity failure (R62). -/
def reportRead (i : SlotId) (block : Nat) (v : Verdict) (t : Tag) (bytes : List Byte) (s : State) : State :=
  if v.isFailure then
    reportFailure
      (integrityRecord v .transaction (s.slot i).regionId block (some (s.slot i).who)
        (tagReport (s.slotRegion i) (s.slot i).captured block t) bytes)
      .transaction (s.slot i).regionId block (some (s.slot i).who) s
  else s

/-- A read whose parts are all DONE releases and is answered (R67, R68). -/
def endReadIfDone (i : SlotId) (s : State) : State :=
  if (s.slot i).parts.all (·.phase == .done) then
    endOp i (s.slot i).status ((s.slot i).parts.any (·.poison))
      (if (s.slot i).status = .okay then (s.slot i).parts.flatMap (·.data) else List.replicate (s.slot i).length 0) s
  else s

/-- Whether a READY read part reads its whole block: its tag was SOUND in a region with GUARD (R61). -/
def Part.needsBlock (g : Region) (p : Part) : Bool := p.phase == .ready && g.checkSet.guard && p.verdict == some .sound

/-- The DATA_READs of one READY part (R63, R64). -/
def readRequests (g : Region) (i : SlotId) (sl : Slot) (k : Nat) (p : Part) : List Request :=
  if p.needsBlock g then blockReads g p.block .work (.part i k) (partKey sl p)
  else [readRequestOf .dataRead .work (g.blockAddress p.block p.offset) p.count (.part i k 0) (partKey sl p)]

/-- A READY part enters READING with its data mode (R63, R64). -/
def Part.issueRead (g : Region) (p : Part) : Part :=
  if p.phase = .ready then
    if p.needsBlock g then
      { p with phase := .reading, mode := some .full, readsOut := g.blockSize / Config.chunkBytes }
    else { p with phase := .reading, mode := some .span, readsOut := 1 }
  else p

/-- A read issues all its data reads at one event (R63). -/
def issueReads (i : SlotId) (s : State) : State :=
  endReadIfDone i
    (appendRequests
      (((s.slot i).indexed.filter (·.1.phase == .ready)).flatMap fun x => readRequests (s.slotRegion i) i (s.slot i) x.2 x.1)
      (s.updSlot i fun sl => { sl with parts := sl.parts.map (Part.issueRead (s.slotRegion i)) }))

/-! ## Buffers (R52) -/

/-- Buffers are assigned to parts, in order. -/
def assignBuffers (i : SlotId) (ks : List Nat) (s : State) : State := ks.foldl (assignBuffer i) s

/-- The parts of a slot that a condition names. -/
def Slot.partsWith (sl : Slot) (p : Part → Bool) : List Nat := (sl.indexed.filter fun x => p x.1).map (·.2)

/-- Whether a read or write part needs a staging buffer (R52). -/
def Part.needsBuffer (g : Region) (k : Kind) (p : Part) : Bool :=
  match k with
  | .read => p.needsBlock g
  | .write => p.phase == .ready && (p.path == some .blankFill || p.path == some .verify)

/-- The parts of a slot that need buffers, in order. -/
def bufferNeeds (s : State) (i : SlotId) : List Nat :=
  (s.slot i).partsWith (Part.needsBuffer (s.slotRegion i) (s.slot i).kind)

/-- An operation asks for its buffers, once: assigned at the asking event, or waited for (R52). -/
def askBuffers (i : SlotId) (proceed : State → State) (s : State) : State :=
  if (bufferNeeds s i).isEmpty then proceed s
  else if s.obt.bufferWait.isEmpty && decide ((bufferNeeds s i).length ≤ s.obt.freeBuffers.length) then
    proceed (assignBuffers i (bufferNeeds s i) s)
  else s.withObt { s.obt with bufferWait := s.obt.bufferWait ++ [(i, (bufferNeeds s i).length)] }

/-- The last part of a read leaves LOOKUP: buffers are asked for and the data reads issued (R63). -/
def readLookedUp (i : SlotId) (s : State) : State :=
  if (s.slot i).parts.any (·.phase == .lookup) then s else askBuffers i (issueReads i) s

/-- A read part is handed its tag (R61). -/
def readHanded (i : SlotId) (k : Nat) (p : Part) (t : Tag) (s : State) : State :=
  readLookedUp i
    (reportRead i p.block (tagEvaluation (s.slotRegion i) (s.slot i).captured p.block t) t []
      (s.updPart i k
        (Part.judgedRead (s.slotRegion i).readAction (tagEvaluation (s.slotRegion i) (s.slot i).captured p.block t) t)))

/-- A read part is told of a fill failure (R60). -/
def readFillFailed (i : SlotId) (k : Nat) (s : State) : State :=
  readLookedUp i (s.updPart i k fun p => { p with phase := .done, outcome := .memoryFault })

/-! ## Reads: the data reads (R64 to R66) -/

/-- A read part whose data read failed (R65). -/
def Part.readFault (p : Part) : Part :=
  { p with
    outcome := .memoryFault, poison := false, data := List.replicate p.count 0
    phase := if p.readsOut = 1 then .done else p.phase, readsOut := p.readsOut - 1 }

/-- A read part's completion counted, its bytes discarded (R65). -/
def Part.readDropped (p : Part) : Part :=
  { p with phase := if p.readsOut = 1 then .done else p.phase, readsOut := p.readsOut - 1 }

/-- The part data a whole block gives (R66). -/
def Part.dataOf (block : List Byte) (p : Part) : List Byte := slice p.offset p.count block

/-- A FULL part after its guard check (R66). -/
def Part.guardChecked (a : ReadAction) (v : Verdict) (block : List Byte) (p : Part) : Part :=
  match v, a with
  | .corrupt, .fail => { p with verdict := some v, phase := .done, outcome := .checkFail }
  | .corrupt, .poison => { p with verdict := some v, phase := .done, poison := true, data := p.dataOf block }
  | _, _ => { p with verdict := some v, phase := .done, data := p.dataOf block }

/-- The guard check of a FULL part (R66). -/
def readGuardCheck (i : SlotId) (k : Nat) (p : Part) (t : Tag) (block : List Byte) (s : State) : State :=
  reportRead i p.block (dataEvaluation t block) t block
    (s.updPart i k (Part.guardChecked (s.slotRegion i).readAction (dataEvaluation t block) block))

/-- The last read of a part has completed, all OK: guard check of a FULL part, end of a SPAN part (R64, R66). -/
def finishReadPart (i : SlotId) (k : Nat) (p : Part) (s : State) : State :=
  match p.mode, p.tag with
  | some .full, some t => readGuardCheck i k p t (bufferBlock s i k (s.slotRegion i).blockSize) s
  | _, _ => s.updPart i k fun p => { p with phase := .done }

/-- Bytes of a read part are stored: in its buffer, or as its part data (R64). -/
def storeRead (i : SlotId) (k landing : Nat) (p : Part) (data : List Byte) (s : State) : State :=
  match p.mode with
  | some .full => storeInBuffer i k landing data s
  | _ => s.updPart i k fun p => { p with data := data }

/-- A DATA_READ of a read part completes OK (R64, R65). -/
def readOk (i : SlotId) (k landing : Nat) (p : Part) (data : List Byte) (s : State) : State :=
  if p.outcome = .memoryFault then s.updPart i k Part.readDropped
  else if p.readsOut = 1 then
    finishReadPart i k p ((storeRead i k landing p data s).updPart i k fun p => { p with readsOut := 0 })
  else (storeRead i k landing p data s).updPart i k fun p => { p with readsOut := p.readsOut - 1 }

/-- A DATA_READ of an abandoned, uncommitted operation completes: bytes discarded, failure posted (R71, R92, R166). DESIGN CHOICE (log
entry 28): of the part record only reads outstanding and fault posted move; phase, outcome and poison stay as they stood at the
abandonment until the slot is freed, which the manual leaves open. -/
def abandonedRead (i : SlotId) (k : Nat) (p : Part) (ok : Bool) (s : State) : State :=
  endAbandoned i
    ((if ok then s else postPartFault .memoryRead i k p s).updPart i k fun p => { p with readsOut := p.readsOut - 1 })

/-- A DATA_READ of a read part completes (R64, R65, R71). -/
def readDone (i : SlotId) (k landing : Nat) (p : Part) (ok : Bool) (data : List Byte) (s : State) : State :=
  if (s.slot i).abandoned then abandonedRead i k p ok s
  else if ok then endReadIfDone i (readOk i k landing p data s)
  else endReadIfDone i ((postPartFault .memoryRead i k p s).updPart i k Part.readFault)

end Sys2Proof.Machine
end

