-- ==== Sys2Proof/Machine/Writes.lean ====
section
/-! DEFINITION. Protected writes (chapter 5): the checking stage, the decision, the commit, and the writing stage. -/

namespace Sys2Proof.Machine

/-! ## The end of a write (R89) -/

/-- A write releases, and is answered with the status of its parts (R89). -/
def endWrite (i : SlotId) (s : State) : State := endOp i (s.slot i).status false [] s

/-- A committed write releases when its last part is DONE (R89). -/
def endWriteIfDone (i : SlotId) (s : State) : State :=
  if (s.slot i).parts.all (·.phase == .done) then endWrite i s else s

/-! ## Commit (R83 to R85) -/

/-- The merged block of a BLANK_FILL or VERIFY part: zeros, or the buffer's bytes, with the enabled bytes placed (R83). -/
def mergedBlock (s : State) (i : SlotId) (k : Nat) (p : Part) : List Byte :=
  placeBytes (enabledBytes (s.slot i) p)
    (if p.path = some .blankFill then List.replicate (s.slotRegion i).blockSize 0
     else bufferBlock s i k (s.slotRegion i).blockSize)

/-- The stored guard of the tag a part was handed. -/
def Part.storedGuard (p : Part) : BitVec 32 := ((p.tag).map (·.guard)).getD 0

/-- The old values of a DELTA part's enabled bytes, with their offsets (R32, R80). -/
def oldEnabled (sl : Slot) (p : Part) : List (Nat × Byte) :=
  (enabledBytes sl p).map fun x => (x.1, p.oldSpan.getD (x.1 - (p.span.getD (0, 0)).1) 0)

/-- The new guard of a part (R83). -/
def newGuard (s : State) (i : SlotId) (k : Nat) (p : Part) : BitVec 32 :=
  if p.path = some .delta then
    deltaGuard p.storedGuard (s.slotRegion i).blockSize (oldEnabled (s.slot i) p) (enabledBytes (s.slot i) p)
  else crc (mergedBlock s i k p)

/-- The data tag a part forms at the commit (R20, R83). -/
def newTagOf (s : State) (i : SlotId) (k : Nat) (p : Part) : Tag :=
  dataTag (s.slotRegion i) p.block (newGuard s i k p) (s.slot i).captured

/-- The byte the span's DATA_WRITE carries at an offset: the request's where enabled, the old one elsewhere (R85). -/
def spanByte (s : State) (i : SlotId) (k : Nat) (p : Part) (first off : Nat) : Byte :=
  if offsetEnabled (s.slot i) p off then (s.slot i).data.getD (p.start + (off - p.offset)) 0
  else if p.path = some .delta then p.oldSpan.getD (off - first) 0
  else (bufferBlock s i k (s.slotRegion i).blockSize).getD off 0

/-- The offsets of an enabled span. -/
def spanOffsets (sp : Nat × Nat) : List Nat := (List.range (sp.2 - sp.1 + 1)).map (sp.1 + ·)

/-- The one DATA_WRITE of a VERIFY or DELTA part (R85). -/
def spanWrite (s : State) (i : SlotId) (k : Nat) (p : Part) : Request :=
  writeRequestOf .dataWrite .work ((s.slotRegion i).blockAddress p.block (p.span.getD (0, 0)).1)
    ((spanOffsets (p.span.getD (0, 0))).map (spanByte s i k p (p.span.getD (0, 0)).1))
    ((spanOffsets (p.span.getD (0, 0))).map (offsetEnabled (s.slot i) p)) (.part i k 0) (partKey (s.slot i) p)

/-- The DATA_WRITEs of a BLANK_FILL part's whole block (R84). -/
def blockWrites (g : Region) (i : SlotId) (sl : Slot) (k : Nat) (p : Part) (block : List Byte) : List Request :=
  (List.range (g.blockSize / Config.chunkBytes)).map fun j =>
    writeRequestOf .dataWrite .work (g.blockAddress p.block (Config.chunkBytes * j))
      (slice (Config.chunkBytes * j) Config.chunkBytes block) (List.replicate Config.chunkBytes true) (.part i k 0)
      (partKey sl p)

/-- The DATA_WRITEs of one part at the commit (R84, R85). -/
def commitWrites (s : State) (i : SlotId) (k : Nat) (p : Part) : List Request :=
  match p.path with
  | some .blankFill => blockWrites (s.slotRegion i) i (s.slot i) k p (mergedBlock s i k p)
  | some .verify | some .delta => [spanWrite s i k p]
  | some .empty | none => []

/-- A part as it enters the writing stage (R83). -/
def commitPart (s : State) (i : SlotId) (k : Nat) (p : Part) : Part :=
  if p.path = some .empty then { p with phase := .done }
  else { p with phase := .writing, newTag := some (newTagOf s i k p), writesOut := (commitWrites s i k p).length }

/-- The merged bytes of a part with a buffer are placed in it (R83). -/
def storeMerged (s0 : State) (i : SlotId) (s : State) (x : Part × Nat) : State :=
  if x.1.path = some .blankFill ∨ x.1.path = some .verify then storeInBuffer i x.2 0 (mergedBlock s0 i x.2 x.1) s else s

/-- The commit (R83). -/
def commitWrite (i : SlotId) (s : State) : State :=
  appendRequests ((s.slot i).indexed.flatMap fun x => commitWrites s i x.2 x.1)
    (((s.slot i).indexed.foldl (storeMerged s i) s).updSlot i fun sl =>
      { sl with committed := true, parts := (s.slot i).indexed.map fun x => commitPart s i x.2 x.1 })

/-- The decision event: with no part in LOOKUP or READING, and, unless one is refused, none still READY, the write is refused
or commits (R82). -/
def decideWrite (i : SlotId) (s : State) : State :=
  if (s.slot i).parts.any (fun p => p.phase == .lookup || p.phase == .reading) then s
  else if (s.slot i).parts.any (·.phase == .refused) then endWrite i s
  else if (s.slot i).parts.all (·.phase == .checked) then commitWrite i s
  else s

/-! ## The checking stage (R75 to R81) -/

/-- A write part with the path its tag verdict chooses (R76). -/
def Part.judgedWrite (m : MergeMode) (v : Verdict) (t : Tag) (p : Part) : Part :=
  match v, p.span, m with
  | .sound, some _, .verify => { p with verdict := some v, tag := some t, path := some .verify, phase := .ready }
  | .sound, some _, .delta => { p with verdict := some v, tag := some t, path := some .delta, phase := .ready }
  | .blank, some _, _ => { p with verdict := some v, tag := some t, path := some .blankFill, phase := .ready }
  | .sound, none, _ | .blank, none, _ => { p with verdict := some v, tag := some t, path := some .empty, phase := .checked }
  | .stale, _, _ | .misplaced, _, _ | .foreign, _, _ | .corrupt, _, _ =>
    { p with verdict := some v, tag := some t, outcome := .checkFail, phase := .refused }

/-- A write reports an integrity failure (R77). -/
def reportWrite (i : SlotId) (block : Nat) (v : Verdict) (t : Tag) (bytes : List Byte) (s : State) : State :=
  if v.isFailure then
    reportFailure
      (mergeRefusedRecord v (s.slot i).regionId block (s.slot i).who
        (tagReport (s.slotRegion i) (s.slot i).captured block t) bytes)
      .transaction (s.slot i).regionId block (some (s.slot i).who) s
  else s

/-- The DATA_READs of a READY part as the write proceeds (R78). -/
def mergeReads (g : Region) (i : SlotId) (sl : Slot) (k : Nat) (p : Part) : List Request :=
  match p.path with
  | some .verify => blockReads g p.block .work (.part i k) (partKey sl p)
  | some .delta =>
    [readRequestOf .dataRead .work (g.blockAddress p.block (p.span.getD (0, 0)).1)
      ((p.span.getD (0, 0)).2 - (p.span.getD (0, 0)).1 + 1) (.part i k 0) (partKey sl p)]
  | some .blankFill | some .empty | none => []

/-- A READY part as the write proceeds (R78). -/
def Part.proceed (g : Region) (p : Part) : Part :=
  match p.phase, p.path with
  | .ready, some .blankFill => { p with phase := .checked }
  | .ready, some .verify => { p with phase := .reading, readsOut := g.blockSize / Config.chunkBytes }
  | .ready, some .delta => { p with phase := .reading, readsOut := 1 }
  | _, _ => p

/-- A write proceeds at its data-issue event, or when its buffers come (R78). -/
def proceedWrite (i : SlotId) (s : State) : State :=
  decideWrite i
    (appendRequests
      (((s.slot i).indexed.filter (·.1.phase == .ready)).flatMap fun x => mergeReads (s.slotRegion i) i (s.slot i) x.2 x.1)
      (s.updSlot i fun sl => { sl with parts := sl.parts.map (Part.proceed (s.slotRegion i)) }))

/-- The data-issue event, once no part is in LOOKUP (R78). -/
def writeLookedUp (i : SlotId) (s : State) : State :=
  if (s.slot i).parts.any (·.phase == .lookup) then s
  else if (s.slot i).parts.any (·.phase == .refused) then decideWrite i s
  else askBuffers i (proceedWrite i) s

/-- A write part is handed its tag (R76). -/
def writeHanded (i : SlotId) (k : Nat) (p : Part) (t : Tag) (s : State) : State :=
  writeLookedUp i
    (reportWrite i p.block (tagEvaluation (s.slotRegion i) (s.slot i).captured p.block t) t []
      (s.updPart i k
        (Part.judgedWrite (s.slotRegion i).mergeMode (tagEvaluation (s.slotRegion i) (s.slot i).captured p.block t) t)))

/-- A write part is told of a fill failure (R75). -/
def writeFillFailed (i : SlotId) (k : Nat) (s : State) : State :=
  writeLookedUp i (s.updPart i k fun p => { p with phase := .refused, outcome := .memoryFault })

/-- A part of the checking stage whose read failed (R81). -/
def Part.checkFault (p : Part) : Part :=
  { p with outcome := .memoryFault, phase := if p.readsOut = 1 then .refused else p.phase, readsOut := p.readsOut - 1 }

/-- A part of the checking stage with a completion's bytes discarded (R81). -/
def Part.checkDropped (p : Part) : Part :=
  { p with phase := if p.readsOut = 1 then .refused else p.phase, readsOut := p.readsOut - 1 }

/-- The guard check of a VERIFY part (R79). -/
def verifyGuardCheck (i : SlotId) (k : Nat) (p : Part) (t : Tag) (block : List Byte) (s : State) : State :=
  if dataEvaluation t block = .corrupt then
    reportWrite i p.block .corrupt t block
      (s.updPart i k fun p => { p with verdict := some .corrupt, outcome := .checkFail, phase := .refused })
  else s.updPart i k fun p => { p with verdict := some .sound, phase := .checked }

/-- The last read of a part of the checking stage has completed, all OK (R79, R80). -/
def finishCheckPart (i : SlotId) (k : Nat) (p : Part) (s : State) : State :=
  match p.path, p.tag, (s.slotRegion i).checkSet.guard with
  | some .verify, some t, true => verifyGuardCheck i k p t (bufferBlock s i k (s.slotRegion i).blockSize) s
  | _, _, _ => s.updPart i k fun p => { p with phase := .checked }

/-- Bytes read in the checking stage are stored: in the buffer, or as the old span bytes (R78). -/
def storeCheck (i : SlotId) (k landing : Nat) (p : Part) (data : List Byte) (s : State) : State :=
  match p.path with
  | some .verify => storeInBuffer i k landing data s
  | _ => s.updPart i k fun p => { p with oldSpan := data }

/-- A DATA_READ of the checking stage completes OK (R79 to R81). -/
def checkOk (i : SlotId) (k landing : Nat) (p : Part) (data : List Byte) (s : State) : State :=
  if p.outcome = .memoryFault then s.updPart i k Part.checkDropped
  else if p.readsOut = 1 then
    finishCheckPart i k p ((storeCheck i k landing p data s).updPart i k fun p => { p with readsOut := 0 })
  else (storeCheck i k landing p data s).updPart i k fun p => { p with readsOut := p.readsOut - 1 }

/-- A DATA_READ of a write part completes (R79 to R81, R92). -/
def checkDone (i : SlotId) (k landing : Nat) (p : Part) (ok : Bool) (data : List Byte) (s : State) : State :=
  if (s.slot i).abandoned then abandonedRead i k p ok s
  else if ok then decideWrite i (checkOk i k landing p data s)
  else decideWrite i ((postPartFault .memoryRead i k p s).updPart i k Part.checkFault)

/-! ## The writing stage (R86 to R88) -/

/-- The tag update of a part whose data writes were all OK (R87, R88). DESIGN CHOICE (log entry 28): the new tag, kept in the part
record until this update (R83), stays in it until the slot is freed; the manual says nothing of it after the update. -/
def updatePartTag (i : SlotId) (k : Nat) (p : Part) (s : State) : State :=
  tagUpdate (.slot i) k (s.slot i).regionId p.block (p.newTag.getD .zero)
    (s.updPart i k fun p =>
      { p with phase := if (s.slotRegion i).tagPolicy = .writeThrough then .tagging else .done, writesOut := 0 })

/-- A DATA_WRITE of a part completes OK (R86, R87). -/
def writeOk (i : SlotId) (k : Nat) (p : Part) (s : State) : State :=
  if p.writesOut = 1 then
    if p.outcome = .memoryFault then s.updPart i k fun p => { p with phase := .done, newTag := none, writesOut := 0 }
    else updatePartTag i k p s
  else s.updPart i k fun p => { p with writesOut := p.writesOut - 1 }

/-- A part one of whose data writes failed (R86). -/
def Part.writeFault (p : Part) : Part :=
  { p with
    outcome := .memoryFault
    phase := if p.writesOut = 1 then .done else p.phase
    newTag := if p.writesOut = 1 then none else p.newTag
    writesOut := p.writesOut - 1 }

/-- A DATA_WRITE of a part completes (R86). -/
def writeDone (i : SlotId) (k : Nat) (p : Part) (ok : Bool) (s : State) : State :=
  if ok then endWriteIfDone i (writeOk i k p s)
  else endWriteIfDone i ((postPartFault .memoryWrite i k p s).updPart i k Part.writeFault)

/-- A part's write-through tag write completes (R88). -/
def partTagged (i : SlotId) (k : Nat) (ok : Bool) (s : State) : State :=
  endWriteIfDone i
    (s.updPart i k fun p => { p with phase := .done, outcome := if ok then p.outcome else .memoryFault })

end Sys2Proof.Machine
end

