-- ==== Sys2Proof/Machine/SweepWork.lean ====
section
/-! DEFINITION. The sweep's work on a block (7.4): the grant, FORMAT, SCRUB and REBLANK, the end of the block's work, pacing. -/

namespace Sys2Proof.Machine

/-- The pacing wait of a SCRUB job that has released a block other than its last (R126). -/
def startPacing (s : State) : State :=
  if s.su.pacing = 0 then joinSweep s
  else setStep .pacing (s.withSu { s.su with pacingTimer := some s.su.pacing })

/-- A FORMAT or REBLANK job has passed its last block: it is FINISHING, and asks for its end flush (R128), after the high-water
write-backs of the block's release (`endBlock`, log entry 24). -/
def startFinishing (r : RegionId) (s : State) : State :=
  makeFlush .job (some r) (s.updHeadJob fun j => { j with state := .finishing, step := .none })

/-- The job's next action after the release of a block (7.2). -/
def nextAction (s : State) : State :=
  match s.su.jobs with
  | [] => s
  | j :: _ =>
    if j.cancelRequested then endHeadJob .sweepCancelled none s
    else if j.position < j.first + j.count then
      match j.kind with
      | .scrub => startPacing s
      | .format | .reblank => joinSweep s
    else
      match j.kind with
      | .scrub => endHeadJob .sweepDone none s
      | .format | .reblank => startFinishing j.region s

/-- How a block's work ended: skipped, or done with or without an error (Table 7-1). -/
inductive BlockEnd where
  | skipped | done (error : Bool)
  deriving DecidableEq, Repr

/-- A job record past a block (R123 to R127). -/
def Job.passed (e : BlockEnd) (j : Job) : Job :=
  match e with
  | .skipped => { j with position := j.position + 1, skipped := j.skipped + 1 }
  | .done err => { j with position := j.position + 1, done := j.done + 1, errors := j.errors + bit err }

/-- A FORMAT job moves its region's frontier past the block (R124). -/
def advanceFrontier (j : Job) (s : State) : State :=
  match j.kind with
  | .format => s.updRegion j.region (Region.advance j.position)
  | .scrub | .reblank => s

/-- The work on a block ends: counters and frontier, release, next action, at one event (R123, R124). DESIGN CHOICE (log entry 24):
where the release discards a STRANDED line, the cancellation of the region's jobs (R130, R136) is taken before the job's next
action, so that a SCRUB job at its last block ends SWEEP_CANCELLED; and where the release leaves more DIRTY lines eligible than R107 allows, the
high-water write-backs are issued before a FORMAT or REBLANK job's end flush is made and issues its own (R128). The manual leaves both
orders open. -/
def endBlock (e : BlockEnd) (s : State) : State :=
  match s.su.jobs with
  | [] => s
  | j :: _ =>
    nextAction (releaseOp .sweep ((advanceFrontier j (s.updHeadJob (Job.passed e))).setBlockWork .idle))

/-- The epoch a job works a block in (R123 step 1). -/
def Job.epochOf (j : Job) (g : Region) : Epoch :=
  match j.kind, j.formatEpoch with
  | .format, some e => e
  | _, _ => g.epoch

/-- The running job, holding its block, begins the block's work (R123). -/
def beginBlock (s : State) : State :=
  match s.su.jobs with
  | [] => s
  | j :: _ =>
    lookupTag .sweep 0 j.region j.position
      (s.setBlockWork { BlockWork.idle with epoch := j.epochOf (s.region j.region) })

/-- A blank tag is written; in a WRITE_THROUGH region the work waits for its tag write (R124, R127). -/
def blankBlock (j : Job) (s : State) : State :=
  match (s.region j.region).tagPolicy with
  | .writeBack =>
    endBlock (.done false)
      (tagUpdate .sweep 0 j.region j.position (blankTag (s.region j.region) j.position s.su.work.epoch) s)
  | .writeThrough =>
    tagUpdate .sweep 0 j.region j.position (blankTag (s.region j.region) j.position s.su.work.epoch) s

/-- A scrub reports an integrity failure (R125). -/
def reportScrub (j : Job) (v : Verdict) (t : Tag) (bytes : List Byte) (s : State) : State :=
  reportFailure
    (integrityRecord v .sweep j.region j.position none
      (tagReport (s.region j.region) s.su.work.epoch j.position t) bytes)
    .sweep j.region j.position none s

/-- The record key of a sweep read (Table 10-2). -/
def sweepKey (j : Job) : RecordKey := ⟨some j.region, some j.position, none, none⟩

/-- A SCRUB job reads a whole block into the sweep buffer (R54, R125 step 3). -/
def scrubRead (j : Job) (t : Tag) (s : State) : State :=
  appendRequests (blockReads (s.region j.region) j.position .sweep .sweepRead (sweepKey j))
    ((s.withObt { s.obt with sweepBuffer := { s.obt.sweepBuffer with assigned := true } }).setBlockWork
      { s.su.work with tag := some t, readsOut := (s.region j.region).blockSize / Config.chunkBytes })

/-- A SCRUB job is handed a block's tag (R125). -/
def scrubHanded (j : Job) (t : Tag) (s : State) : State :=
  match tagEvaluation (s.region j.region) s.su.work.epoch j.position t with
  | .blank => endBlock (.done false) s
  | .sound => scrubRead j t s
  | v => endBlock (.done true) (reportScrub j v t [] s)

/-- The running job is handed its block's tag (R124, R125, R127). -/
def sweepHanded (t : Tag) (s : State) : State :=
  match s.su.jobs with
  | [] => s
  | j :: _ =>
    match j.kind with
    | .format => if t.epoch = s.su.work.epoch then endBlock .skipped s else blankBlock j s
    | .scrub => scrubHanded j t s
    | .reblank => blankBlock j s

/-- The whole block of the sweep buffer. -/
def sweepBlock (s : State) (B : Nat) : List Byte := s.obt.sweepBuffer.bytes.take B

/-- The last read of a scrubbed block has completed (R125 step 3). -/
def scrubDone (j : Job) (s : State) : State :=
  if s.su.work.failed then endBlock (.done true) s
  else
    match s.su.work.tag with
    | none => endBlock (.done false) s
    | some t =>
      if dataEvaluation t (sweepBlock s (s.region j.region).blockSize) = .corrupt then
        endBlock (.done true) (reportScrub j .corrupt t (sweepBlock s (s.region j.region).blockSize) s)
      else endBlock (.done false) s

/-- Bytes of a scrub read are stored, or a failure is posted once per block (R125 step 3). -/
def scrubTake (j : Job) (landing : Nat) (ok : Bool) (data : List Byte) (s : State) : State :=
  if s.su.work.failed then s
  else if ok then
    s.withObt { s.obt with sweepBuffer := { s.obt.sweepBuffer with bytes := overlay landing data s.obt.sweepBuffer.bytes } }
  else
    offer (Record.ofBlock .memoryRead .sweep j.region j.position) (s.setBlockWork { s.su.work with failed := true })

/-- A scrub read counted off, and the block's work ended with the last (R125 step 3). -/
def scrubCount (j : Job) (s : State) : State :=
  if s.su.work.readsOut = 1 then scrubDone j (s.setBlockWork { s.su.work with readsOut := 0 })
  else s.setBlockWork { s.su.work with readsOut := s.su.work.readsOut - 1 }

/-- A DATA_READ of the sweep completes (R125). -/
def sweepReadDone (landing : Nat) (ok : Bool) (data : List Byte) (s : State) : State :=
  match s.su.jobs with
  | [] => s
  | j :: _ => scrubCount j (scrubTake j landing ok data s)

/-- A write-through tag write of the sweep completes: the block's work ends (R124, R127). -/
def sweepTagged (ok : Bool) (s : State) : State := endBlock (.done !ok) s

/-- The sweep is told of a fill failure: the block counts as done with an error (R123 step 3). -/
def sweepFillFailed (s : State) : State := endBlock (.done true) s

end Sys2Proof.Machine
end

