-- ==== Sys2Proof/Machine/Completion.lean ====
section
/-! DEFINITION. The cascade of one step's internal events (log entry 3), and completions handed to their issuers (R152, R163 to
R166). -/

namespace Sys2Proof.Machine

/-! ## Internal events -/

/-- An operation that holds its blocks begins its work: its parts' tag lookups are all taken at this event (R46, R60, R75, R123).
DESIGN CHOICE (log entry 24): part 1's lookup comes before part 2's, an order the manual leaves open. -/
def beginWork (op : OpId) (s : State) : State :=
  match op with
  | .slot i =>
    if (s.slot i).state = .active then
      (s.slot i).indexed.foldl (fun s x => lookupTag op x.2 (s.slot i).regionId x.1.block s) s
    else s
  | .sweep => beginBlock s

/-- A part of an upstream operation in LOOKUP is handed its tag; an abandoned operation takes no evaluation (R61, R71, R76). -/
def partHanded (i : SlotId) (k : Nat) (t : Tag) (s : State) : State :=
  match s.part i k with
  | none => s
  | some p =>
    if (s.slot i).abandoned ∨ p.phase ≠ .lookup then s
    else
      match (s.slot i).kind with
      | .read => readHanded i k p t s
      | .write => writeHanded i k p t s

/-- A part of an upstream operation in LOOKUP is told of a fill failure (R60, R75). -/
def partFillFailed (i : SlotId) (k : Nat) (s : State) : State :=
  match s.part i k with
  | none => s
  | some p =>
    if (s.slot i).abandoned ∨ p.phase ≠ .lookup then s
    else
      match (s.slot i).kind with
      | .read => readFillFailed i k s
      | .write => writeFillFailed i k s

/-- One internal event is taken. -/
def runTask (t : Task) (s : State) : State :=
  match t with
  | .grant r b => applyGrant r b s
  | .beginWork op => beginWork op s
  | .handTag (.slot i) k tag => partHanded i k tag s
  | .handTag .sweep _ tag => sweepHanded tag s
  | .fillFailed (.slot i) k => partFillFailed i k s
  | .fillFailed .sweep _ => sweepFillFailed s
  | .drainCheck r => drainCheck r s

/-- The internal events are taken, first in first out, at most `n` of them (log entry 3). -/
def settle : Nat → State → State
  | 0, s => s
  | n + 1, s =>
    match s.work with
    | [] => s
    | t :: rest => settle n (runTask t (s.withWork rest))

/-! ## The end of an engine reset (R186) -/

/-- Whether a request still holds the Memory Arbiter's part of an engine reset (R169). -/
def MemoryArbiter.inReset (m : MemoryArbiter) : Bool :=
  m.tagQueue.any (·.inReset) || m.workQueue.any (·.inReset) || m.sweepQueue.any (·.inReset) ||
    m.tags.toList.any fun t => t.state == .inFlight && t.request.any (·.inReset)

/-- Whether every owner's part of an engine reset has ended (R186). -/
def resetPartsEnded (s : State) : Bool :=
  s.tu.slots.toList.all (!·.inReset) && s.su.jobs.isEmpty && s.ru.regions.toList.all (·.state != .draining) && !s.ma.inReset

/-- RESET ENGINE ends when the last part ends (R186). -/
def endReset (s : State) : State :=
  match s.mp.long with
  | some (.resetEngine d) =>
    if resetPartsEnded s then finishCommand (if d then .donePartial else .doneOk) s else s
  | some .flush | some (.deactivate _) | none => s

/-- What one event sets off is taken within the same step (log entry 3). -/
def run (s : State) : State := endReset (settle Config.cascadeFuel s)

/-! ## Completions (R152, R166) -/

/-- A pass-through slot's request failed: a record without region, and MEMORY_FAULT (R152). -/
def passKind (k : Kind) : RecordKind :=
  match k with
  | .read => .memoryRead
  | .write => .memoryWrite

/-- The record of a failed pass-through request. -/
def postPass (i : SlotId) (ok : Bool) (s : State) : State :=
  if ok then s else offer (passRecord (passKind (s.slot i).kind) (s.slot i).who) s

/-- The data of a pass-through response (R152). -/
def passData (sl : Slot) (ok : Bool) (data : List Byte) : List Byte :=
  match sl.kind with
  | .write => []
  | .read => if ok then data else List.replicate sl.length 0

/-- A pass-through request completes (R152, R155). -/
def passDone (i : SlotId) (ok : Bool) (data : List Byte) (s : State) : State :=
  match (s.slot i).state with
  | .passing => respond i (if ok then .okay else .memoryFault) false (passData (s.slot i) ok data) (postPass i ok s)
  | .abandoned => freeSlot i (postPass i ok s)
  | .free | .classified | .admitting | .active | .responding => s

/-- A data request of a protected part completes (R64, R78, R86). -/
def partDone (k : ReqKind) (i : SlotId) (part landing : Nat) (ok : Bool) (data : List Byte) (s : State) : State :=
  match s.part i part with
  | none => s
  | some p =>
    match (s.slot i).kind, k with
    | .read, _ => readDone i part landing p ok data s
    | .write, .dataWrite => writeDone i part p ok s
    | .write, _ => checkDone i part landing p ok data s

/-- A write-through tag write's completion is handed to the operation that made the update (R102). -/
def makerTagged (maker : OpId) (part : Nat) (ok : Bool) (s : State) : State :=
  match maker with
  | .slot i => partTagged i part ok s
  | .sweep => sweepTagged ok s

/-- A completion is handed to its issuer (R163, R166). DESIGN CHOICE (log entry 24): a TAG_WRITE's completion is taken by its line
first, which may become CLEAN, complete a flush request and end a job (R102, R108, R128), and by the maker of the update after it,
whose release may discard lines (R88, R106); the manual leaves the order of the records open. -/
def complete (q : Request) (ok : Bool) (data : List Byte) (s : State) : State :=
  match q.issuer with
  | .part i part landing => partDone q.kind i part landing ok data s
  | .passThrough i => passDone i ok data s
  | .sweepRead landing => sweepReadDone landing ok data s
  | .line l => lineDone l ok data s
  | .tagWrite l maker part => makerTagged maker part ok (tagWriteDone l q.key ok s)

/-! ## Responses and expiries at a tag (R163 to R165) -/

/-- `n` free bytes, for bytes of a response that memory did not return (log entry 18). -/
def freeBytes (n : Nat) (s : State) : List Byte := (List.range n).map fun k => Config.freeByte (s.free + k)

/-- The bytes an OK response hands to a read of `n` bytes: those it carries, whichever request they answered (R163, R165). Of more
than `n` bytes the first `n` are handed, and missing ones are free values (log entry 18). -/
def handedData (n : Nat) (data : List Byte) (s : State) : List Byte := data.take n ++ freeBytes (n - data.length) s

/-- An IN_FLIGHT tag's response: the timer stops, the tag becomes FREE, and the completion is handed over (R163). A stale response
that reaches a tag granted again is taken the same way, with its own result and data (R165). -/
def takeResponse (t : DownTagId) (q : Request) (ok : Bool) (data : List Byte) (s : State) : State :=
  if !ok || q.kind.isWrite then complete q ok [] (s.setDownTag t .powerOn)
  else
    complete q true (handedData q.length data s)
      ((s.setDownTag t .powerOn).withFree (s.free + (q.length - data.length)))

/-- A response for a tag that is not IN_FLIGHT is discarded: LATE_RESPONSE, with the tag's key when it is QUARANTINED (R165). -/
def lateResponse (t : DownTagId) (s : State) : State :=
  match (s.downTag t).state, (s.downTag t).request with
  | .quarantined, some q => offer (downstreamRecord .lateResponse q.key) (s.setDownTag t .powerOn)
  | _, _ => offer (downstreamRecord .lateResponse .none) s

/-- A response arrives (10.2.1); while PORST# is asserted the port takes none (R190). -/
def responseArrives (t : DownTagId) (ok : Bool) (data : List Byte) (s : State) : State :=
  if s.pins.porst then s
  else
    match (s.downTag t).state, (s.downTag t).request with
    | .inFlight, some q => run (takeResponse t q ok data s)
    | _, _ => lateResponse t s

/-- DOWNSTREAM_RESPONSE (R163, R165). -/
def execDownstreamResponse (t : DownTagId) (ok : Bool) (data : List Byte) (s : State) : Host.Outcome State Fault Refusal :=
  .next (responseArrives t ok data s)

/-- A tag whose response timer has expired (R164 step 3). -/
def DownTag.quarantine (d : DownTag) : DownTag :=
  { d with state := .quarantined, responseTimer := none, quarantineTimer := some (Config.quarantineFactor * d.timeout) }

/-- The response timer of an IN_FLIGHT tag expires: TIMEOUT, the error completion, the quarantine (R164). -/
def responseExpired (t : DownTagId) (s : State) : State :=
  match (s.downTag t).state, (s.downTag t).request with
  | .inFlight, some q =>
    run (complete q false []
      ((offer (downstreamRecord .timeout q.key) s).setDownTag t (s.downTag t).quarantine))
  | _, _ => s

/-- RESPONSE_TIMER_EXPIRY (R164). -/
def execResponseTimerExpiry (t : DownTagId) (s : State) : Host.Outcome State Fault Refusal := .next (responseExpired t s)

/-- QUARANTINE_TIMER_EXPIRY (R165): the tag is FREE and drops its request, without a record; a response that comes later finds it
FREE, or IN_FLIGHT for another request. -/
def execQuarantineTimerExpiry (t : DownTagId) (s : State) : Host.Outcome State Fault Refusal :=
  .next (if (s.downTag t).state = .quarantined then s.setDownTag t .powerOn else s)

/-! ## The pacing timer (R126) -/

/-- The pacing timer expires: the job joins the block at its position (R126). -/
def pacingExpired (s : State) : State :=
  if s.su.pacingTimer.isSome then run (joinSweep (stopPacing s)) else s

/-- PACING_TIMER_EXPIRY (R126). -/
def execPacingTimerExpiry (s : State) : Host.Outcome State Fault Refusal := .next (pacingExpired s)

end Sys2Proof.Machine
end

