-- ==== Sys2Proof/Machine/Transactions.lean ====
section
/-! DEFINITION. The transaction port (chapter 9) with the admission queue and the buffer wait FIFO (chapter 3): arrival, form check,
lookup, refusal, pass-through, admission, the buffer examination, responses sent, and abandonment. -/

namespace Sys2Proof.Machine

/-! ## Form and lookup (R149, R9) -/

/-- Whether a slot's state is one that R149 case 4 compares with. -/
def SlotState.comparable : SlotState → Bool
  | .admitting | .active | .passing | .responding => true
  | .free | .classified | .abandoned => false

/-- Whether another slot holds a request of the same requester and transaction ID (R149 case 4). -/
def duplicateId (s : State) (q : RequesterId) (t : TransactionId) : Bool :=
  s.tu.slots.toList.any fun sl => sl.state.comparable && sl.requester == q && sl.tid == t

/-- Whether a request is MALFORMED (R149). -/
def malformed (s : State) (sl : Slot) : Bool :=
  sl.length == 0 || decide (256 < sl.length) ||
    sl.address.toNat / 4096 != (sl.address.toNat + sl.length - 1) / 4096 ||
    (sl.kind == .write && !sl.enables.any id) || duplicateId s sl.requester sl.tid

/-- Whether a permission allows a request (R7). -/
def Permission.allows (p : Permission) (k : Kind) : Bool :=
  match p, k with
  | .readWrite, _ | .read, .read => true
  | .read, .write | .none, _ => false

/-- Whether a region whose state and fence are looked at refuses a request (R9 step 5, R40). -/
def Region.refuses (g : Region) (k : Kind) : Bool := !g.state.admits || (g.fenced && k == .write)

/-- What a lookup returns: a class, the region once step 2 has found one, or the region of a tag-area refusal; and whether a
record names the first block (R9, R150). -/
structure Lookup where
  cls : SlotClass
  region : Option RegionId
  recordRegion : Option RegionId
  recordBlock : Option Nat
  deriving DecidableEq, Repr

/-- Steps 3 to 6 of the lookup, in a region (R9). -/
def lookupInRegion (s : State) (sl : Slot) (r : RegionId) : Lookup :=
  match vget s.ru.requesterMap (Fin.ofNat 64 sl.requester.toNat) with
  | none => ⟨.refused .denied, some r, some r, some ((s.region r).blockOf sl.address.toNat)⟩
  | some p =>
    if !(vget (s.region r).permissions p).allows sl.kind then
      ⟨.refused .denied, some r, some r, some ((s.region r).blockOf sl.address.toNat)⟩
    else if (s.region r).refuses sl.kind then
      ⟨.refused .unavailable, some r, some r, some ((s.region r).blockOf sl.address.toNat)⟩
    else ⟨.protectedWork, some r, none, none⟩

/-- The region lookup (R9). -/
def lookupRegion (s : State) (sl : Slot) : Lookup :=
  match s.tagAreaAt sl.address.toNat sl.length with
  | some r => ⟨.refused .denied, none, some r, none⟩
  | none =>
    match s.regionAt sl.address.toNat with
    | some r => lookupInRegion s sl r
    | none =>
      match s.ru.unmapped with
      | .pass => ⟨.passThrough, none, none, none⟩
      | .deny => ⟨.refused .denied, none, none, none⟩

/-- The classification of a request (R148). -/
def classify (s : State) (sl : Slot) : Lookup :=
  if malformed s sl then ⟨.refused .malformed, none, none, none⟩ else lookupRegion s sl

/-! ## The three paths (R150, R151, R39) -/

/-- The access kind of a refusal's status (R150). -/
def Status.recordKind : Status → RecordKind
  | .denied => .denied
  | .unavailable => .unavailable
  | .okay | .checkFail | .memoryFault | .malformed => .malformed

/-- The record of a refusal (R150). -/
def refusalRecord (st : Status) (who : RequesterId × TransactionId) (r : Option RegionId) (b : Option Nat) : Record :=
  { Record.plain st.recordKind .transaction with who := some who, region := r, block := b }

/-- The zero data of a refusal: none for a write, and at most 256 bytes for a read (R145 note 1, R150). -/
def refusalData (sl : Slot) : List Byte :=
  match sl.kind with
  | .write => []
  | .read => List.replicate (min sl.length 256) 0

/-- A slot is refused: its response is formed and a record offered (R150). -/
def refuse (i : SlotId) (st : Status) (r : Option RegionId) (b : Option Nat) (s : State) : State :=
  offer (refusalRecord st (s.slot i).who r b) (respond i st false (refusalData (s.slot i)) s)

/-- The downstream request of a pass-through slot (R151). -/
def passRequest (i : SlotId) (sl : Slot) : Request :=
  match sl.kind with
  | .read =>
    readRequestOf .dataRead .work sl.address.toNat sl.length (.passThrough i) ⟨none, none, some sl.who, none⟩
  | .write =>
    writeRequestOf .dataWrite .work sl.address.toNat sl.data sl.enables (.passThrough i) ⟨none, none, some sl.who, none⟩

/-- A slot joins the admission queue with its part records (R39, R59, R73). -/
def enqueue (i : SlotId) (r : RegionId) (s : State) : State :=
  (s.updSlot i fun sl =>
      { sl with
        state := .admitting
        firstBlock := (s.region r).blockOf sl.address.toNat
        blockSpan := (s.region r).spanOf sl.address.toNat sl.length
        parts := partsOf (s.region r) sl.address.toNat sl.length sl.enables }).withObt
    { s.obt with admission := s.obt.admission ++ [i] }

/-- The slot leaves CLASSIFIED by its class (9.3). -/
def dispatchSlot (i : SlotId) (l : Lookup) (s : State) : State :=
  match l.cls, l.region with
  | .refused st, _ => refuse i st l.recordRegion l.recordBlock s
  | .protectedWork, some r => enqueue i r s
  | .protectedWork, none => s
  | .passThrough, _ => appendRequest (passRequest i (s.slot i)) (s.updSlot i fun sl => { sl with state := .passing })

/-- A request's fields as a slot records them (R148). -/
def Slot.arrived (k : Kind) (q : RequesterId) (t : TransactionId) (a : HostAddr) (n : Nat) (data : List Byte)
    (enables : List Bool) : Slot :=
  { Slot.powerOn with
    state := .classified, requester := q, tid := t, kind := k, address := a, length := n, data := data, enables := enables }

/-- The FREE slot a request takes (R145). -/
def freeSlotOf (s : State) : Option SlotId := allSlots.find? fun i => (s.slot i).state == .free

/-- A request is recorded in a slot and classified (R148). -/
def acceptRequest (i : SlotId) (sl : Slot) (s : State) : State :=
  dispatchSlot i (classify s sl)
    (s.updSlot i fun _ => { sl with cls := some (classify s sl).cls, region := (classify s sl).region })

/-- A request arrives: with a reset pin asserted or no FREE slot the port does not accept it (R145). -/
def arrive (sl : Slot) (s : State) : State :=
  if s.pins.porst || s.pins.frst then s
  else
    match freeSlotOf s with
    | none => s
    | some i => acceptRequest i sl s

/-- READ_REQUEST (R148). -/
def execReadRequest (q : RequesterId) (t : TransactionId) (a : HostAddr) (n : Nat) (s : State) :
    Host.Outcome State Fault Refusal :=
  .next (arrive (Slot.arrived .read q t a n [] []) s)

/-- WRITE_REQUEST (R148). -/
def execWriteRequest (q : RequesterId) (t : TransactionId) (a : HostAddr) (data : List Byte) (enables : List Bool) (s : State) :
    Host.Outcome State Fault Refusal :=
  .next (arrive (Slot.arrived .write q t a data.length data enables) s)

/-! ## Responses sent (R153) -/

/-- The head of the response queue is sent, and its slot freed; with an empty queue there is nothing to send (R153). -/
def sendResponse (s : State) : State :=
  match s.tu.responses with
  | [] => s
  | i :: rest =>
    (freeSlot i (s.withTu { s.tu with responses := rest })).withOut
      { s.out with upstream := s.out.upstream ++ (s.slot i).response.toList }

/-- RESPONSE_SENT (R153). -/
def execResponseSent (s : State) : Host.Outcome State Fault Refusal := .next (sendResponse s)

/-! ## Admission (R40 to R42) -/

/-- The entry places a head needs: one for each block without an entry, or whose entry has no upstream operation (R41). -/
def placesNeeded (s : State) (i : SlotId) : Nat :=
  (s.slot i).parts.countP fun p => !(s.obt.entry (s.slot i).regionId p.block).any Entry.isUpstream

/-- The mode an upstream operation joins in (R42). -/
def Kind.mode : Kind → Mode
  | .read => .shared
  | .write => .exclusive

/-- The head is admitted: it captures the epoch and joins its blocks, the lower first (R42). -/
def admitHead (i : SlotId) (s : State) : State :=
  (s.slot i).parts.foldl (fun s' p => joinBlock (.slot i) (s.slot i).kind.mode (s.slot i).regionId p.block s')
    (s.updSlot i fun sl => { sl with state := .active, epoch := some (s.slotRegion i).epoch })

/-- The head of the admission queue is examined (R40, R41). -/
def examineAdmission (s : State) : State :=
  match s.obt.admission with
  | [] => s
  | i :: rest =>
    if (s.slotRegion i).refuses (s.slot i).kind then
      refuse i .unavailable (s.slot i).region (some (s.slot i).firstBlock) (s.withObt { s.obt with admission := rest })
    else if s.obt.upstream + placesNeeded s i ≤ Config.upstreamEntryLimit then
      run (admitHead i (s.withObt { s.obt with admission := rest }))
    else s

/-- ADMISSION_EXAMINATION (R40). -/
def execAdmissionExamination (s : State) : Host.Outcome State Fault Refusal := .next (examineAdmission s)

/-! ## The buffer wait FIFO (R53) -/

/-- An operation whose buffers have come goes on (R63, R78). -/
def proceed (i : SlotId) (s : State) : State :=
  match (s.slot i).kind with
  | .read => issueReads i s
  | .write => proceedWrite i s

/-- The buffer wait FIFO is examined, at most `n` heads (R53). -/
def examineBuffers : Nat → State → State
  | 0, s => s
  | n + 1, s =>
    match s.obt.bufferWait with
    | [] => s
    | (i, c) :: rest =>
      if c ≤ s.obt.freeBuffers.length then
        examineBuffers n
          (proceed i (assignBuffers i (bufferNeeds s i) (s.withObt { s.obt with bufferWait := rest })))
      else s

/-- BUFFER_WAIT_EXAMINATION (R53). -/
def execBufferWaitExamination (s : State) : Host.Outcome State Fault Refusal :=
  .next (run (examineBuffers s.obt.bufferWait.length s))

/-! ## Abandonment (R155, R157, R57) -/

/-- A slot is marked ABANDONED. -/
def markAbandoned (i : SlotId) (s : State) : State :=
  s.updSlot i fun sl => { sl with state := .abandoned, abandoned := true }

/-- An operation leaves the buffer wait FIFO. -/
def leaveBufferWait (i : SlotId) (s : State) : State :=
  s.withObt { s.obt with bufferWait := s.obt.bufferWait.filter (·.1 != i) }

/-- An ACTIVE operation is abandoned by where it stands (R57, R155). -/
def abandonActive (i : SlotId) (s : State) : State :=
  if !holdsAll s i then freeSlot i (leaveBlocks (.slot i) s)
  else if (s.slot i).committed then markAbandoned i s
  else endAbandoned i (leaveBufferWait i (markAbandoned i s))

/-- A slot is abandoned by its state (R155). -/
def abandonSlot (s : State) (i : SlotId) : State :=
  match (s.slot i).state with
  | .admitting => freeSlot i (s.withObt { s.obt with admission := s.obt.admission.filter (· != i) })
  | .responding => freeSlot i (s.withTu { s.tu with responses := s.tu.responses.filter (· != i) })
  | .active => abandonActive i s
  | .passing => markAbandoned i s
  | .free | .classified | .abandoned => s

/-- Every slot that is not FREE is abandoned, at one event (R155, R157). DESIGN CHOICE (log entry 24): in ascending slot number, an
order the manual leaves open. -/
def abandonAll (s : State) : State := allSlots.foldl abandonSlot s

end Sys2Proof.Machine
end

