-- ==== Sys2Proof/Machine/RegionCommands.lean ====
section
/-! DEFINITION. The mailbox commands of the Region Unit (1.6, 8.2, 8.3, 8.5), as their owner takes them (R181): the state is the one
after the hand-over, the mailbox BUSY, and the command holds its own copy of the parameter registers. -/

namespace Sys2Proof.Machine

/-- A command that names a region: an index outside 0 to 15 gives REFUSED_PARAM. -/
def onRegion (c : Command) (f : RegionId → State → State) (s : State) : State :=
  match c.regionField with
  | none => finishCommand .refusedParam s
  | some r => f r s

/-! ## DEFINE REGION (R11 to R13) -/

/-- Whether the numbers of DEFINE REGION may define a region (R11 step 3). -/
def geometryOk (base size block tagBase epoch : Nat) : Bool :=
  base % 4096 == 0 && size != 0 && size % 4096 == 0 && decide (base + size ≤ 2 ^ 40) && isBlockSize block &&
    tagBase % 64 == 0 && decide (tagBase + tagAreaBytes (size / block) ≤ 2 ^ 40) && epoch != 0 && decide (epoch ≤ 127)

/-- The record DEFINE REGION leaves, from its parameters and the record before (R13). DESIGN CHOICE (log entry 27): with its drain
discard count at 0. -/
def Region.defined (c : Command) (ra : ReadAction) (mm : MergeMode) (tp : TagPolicy) (g : Region) : Region :=
  { Region.powerOn with
    state := .configured
    label := c.byteAt 1
    base := c.field 2 5
    size := c.field 7 5
    blockSize := c.field 12 2
    blockCount := c.field 7 5 / c.field 12 2
    tagBase := c.field 14 5
    epoch := BitVec.ofNat 7 (c.field 19 1)
    seed := BitVec.ofNat 16 (c.field 20 2)
    checkSet := checkSetOf (c.byteAt 22)
    readAction := ra
    mergeMode := mm
    tagPolicy := tp
    frontier := c.field 7 5 / c.field 12 2
    warnThreshold := g.warnThreshold
    fenceThreshold := g.fenceThreshold
    fenceEnable := g.fenceEnable
    healthLocked := g.healthLocked }

/-- The record DEFINE REGION asks for, when its fields pass the checks of R11 step 3. -/
def requestedRegion (c : Command) (g : Region) : Option Region :=
  match readActionCode (c.field 23 1), mergeModeCode (c.field 24 1), tagPolicyCode (c.field 25 1) with
  | some ra, some mm, some tp =>
    if geometryOk (c.field 2 5) (c.field 7 5) (c.field 12 2) (c.field 14 5) (c.field 19 1) then some (g.defined c ra mm tp)
    else none
  | _, _, _ => none

/-- Whether a region to be defined conflicts with another (R12). -/
def Region.conflicts (g h : Region) : Bool :=
  h.isDefined &&
    (overlaps g.base g.size h.base h.size || overlaps g.base g.size h.tagBase h.tagBytes ||
      overlaps g.tagBase g.tagBytes h.base h.size || overlaps g.tagBase g.tagBytes h.tagBase h.tagBytes || g.label == h.label)

/-- Whether a region to be defined under an index conflicts with any other, or with itself (R12). -/
def defineConflict (s : State) (r : RegionId) (g : Region) : Bool :=
  overlaps g.base g.size g.tagBase g.tagBytes || allRegions.any fun q => q != r && g.conflicts (s.region q)

/-- DEFINE REGION of a region index (R11 to R13). -/
def defineRegion (c : Command) (r : RegionId) (s : State) : State :=
  if (s.region r).state ≠ .empty then finishCommand .refusedState s
  else
    match requestedRegion c (s.region r) with
    | none => finishCommand .refusedParam s
    | some g =>
      if defineConflict s r g then finishCommand .refusedConflict s
      else finishCommand .doneOk (s.updRegion r fun _ => g)

/-- DEFINE REGION (R11). -/
def cmdDefineRegion (c : Command) (s : State) : State := onRegion c (defineRegion c) s

/-! ## CLEAR REGION, SET ACCESS, MAP REQUESTER, SET UNMAPPED POLICY, QUERY REGION (R14 to R18) -/

/-- A cleared record: power-on values but for the thresholds, the fence enable and the lock (R14). DESIGN CHOICE (log entry 27): with
its drain discard count at 0. -/
def Region.cleared (g : Region) : Region :=
  { Region.powerOn with
    warnThreshold := g.warnThreshold, fenceThreshold := g.fenceThreshold, fenceEnable := g.fenceEnable
    healthLocked := g.healthLocked }

/-- Whether a slot in the admission queue is classified to a region (R14). -/
def queuedFor (s : State) (r : RegionId) : Bool := s.obt.admission.any fun i => (s.slot i).region == some r

/-- CLEAR REGION of a region (R14). -/
def clearRegion (r : RegionId) (s : State) : State :=
  if (s.region r).state ≠ .configured then finishCommand .refusedState s
  else if queuedFor s r then finishCommand .refusedConflict s
  else finishCommand .doneOk (s.updRegion r Region.cleared)

/-- CLEAR REGION (R14). -/
def cmdClearRegion (c : Command) (s : State) : State := onRegion c clearRegion s

/-- Eight permissions as a table. -/
def permissionTable (ps : List Permission) : Vector Permission 8 := Vector.ofFn fun i => ps.getD i.val .none

/-- SET ACCESS (R15). -/
def cmdSetAccess (c : Command) (s : State) : State :=
  match c.regionField, c.codes permissionCode 1 8 with
  | some r, some ps =>
    if (s.region r).state = .empty then finishCommand .refusedState s
    else finishCommand .doneOk (s.updRegion r fun g => { g with permissions := permissionTable ps })
  | _, _ => finishCommand .refusedParam s

/-- MAP REQUESTER (R16). -/
def cmdMapRequester (c : Command) (s : State) : State :=
  match index? 64 (c.field 0 1), partitionCode (c.field 1 1) with
  | some q, some p =>
    finishCommand .doneOk (s.withRu { s.ru with requesterMap := vset s.ru.requesterMap q p })
  | _, _ => finishCommand .refusedParam s

/-- SET UNMAPPED POLICY (R17). -/
def cmdSetUnmappedPolicy (c : Command) (s : State) : State :=
  match policyCode (c.field 0 1) with
  | some p => finishCommand .doneOk (s.withRu { s.ru with unmapped := p })
  | none => finishCommand .refusedParam s

/-- QUERY REGION (R18, R188). -/
def cmdQueryRegion (c : Command) (s : State) : State :=
  onRegion c (fun r s => finishCommand .doneOk (writeResults 0 (s.region r).snapshot s)) s

/-! ## ACTIVATE and DEACTIVATE (R132, R133, R119) -/

/-- An ACTIVATE that resumes a format: the region is FORMATTING and a FORMAT job is queued from its frontier (R119, R132). -/
def resumeFormat (r : RegionId) (s : State) : State :=
  startNext
    (finishCommand .doneOk
      (writeResults 0 [s.su.idToGive]
        (acceptJob .format r (s.region r).frontier ((s.region r).blockCount - (s.region r).frontier) (some (s.region r).epoch)
          (s.updRegion r fun g => { g with state := .formatting }))))

/-- ACTIVATE of a region (R132). -/
def activate (r : RegionId) (s : State) : State :=
  if (s.region r).state ≠ .configured then finishCommand .refusedState s
  else if (s.region r).frontier < (s.region r).blockCount then
    if queueFull s then finishCommand .queueFull s else resumeFormat r s
  else finishCommand .doneOk (s.updRegion r fun g => { g with state := .online })

/-- ACTIVATE (R132). -/
def cmdActivate (c : Command) (s : State) : State := run (onRegion c activate s)

/-- Whether a region is in a state a drain may start from (R133). -/
def RegionState.drainable : RegionState → Bool
  | .online | .formatting | .faulted => true
  | .empty | .configured | .draining => false

/-- DEACTIVATE of a region (R133). -/
def deactivate (r : RegionId) (s : State) : State :=
  if (s.region r).state.drainable then startDrain r (startLong (.deactivate r) s) else finishCommand .refusedState s

/-- DEACTIVATE (R133). -/
def cmdDeactivate (c : Command) (s : State) : State := run (onRegion c deactivate s)

/-! ## Health (R140 to R143) -/

/-- UNFENCE (R140). -/
def cmdUnfence (c : Command) (s : State) : State :=
  onRegion c
    (fun r s =>
      if (s.region r).state = .empty then finishCommand .refusedState s
      else finishCommand .doneOk (s.updRegion r fun g => { g with fenced := false })) s

/-- SET HEALTH of a region (R141). -/
def setHealth (c : Command) (r : RegionId) (s : State) : State :=
  if (s.region r).healthLocked then finishCommand .refusedLocked s
  else
    match settingCode (c.field 9 1) with
    | none => finishCommand .refusedParam s
    | some e =>
      if 65535 < c.field 1 4 ∨ 65535 < c.field 5 4 then finishCommand .refusedParam s
      else
        finishCommand .doneOk
          (s.updRegion r fun g =>
            { g with warnThreshold := c.field 1 4, fenceThreshold := c.field 5 4, fenceEnable := e })

/-- SET HEALTH (R141). -/
def cmdSetHealth (c : Command) (s : State) : State := onRegion c (setHealth c) s

/-- CLEAR HEALTH (R142). -/
def cmdClearHealth (c : Command) (s : State) : State :=
  onRegion c
    (fun r s => finishCommand .doneOk (s.updRegion r fun g => { g with errorCount := 0, warnReported := false })) s

/-- LOCK HEALTH (R143). -/
def cmdLockHealth (c : Command) (s : State) : State :=
  onRegion c (fun r s => finishCommand .doneOk (s.updRegion r fun g => { g with healthLocked := true })) s

end Sys2Proof.Machine
end

