-- ==== Sys2Proof/Machine/UnitCommands.lean ====
section
/-! DEFINITION. The mailbox commands of the Sweep Unit (7.3), the Tag Cache (6.8.1), the Memory Arbiter (10.6), the Event Log (11.6)
and RESET ENGINE (12.3), as their owners take them (R181). -/

namespace Sys2Proof.Machine

/-! ## Sweep commands (R116 to R122) -/

/-- A region after FORMAT is accepted (R116). -/
def Region.formatted (g : Region) : Region :=
  { g with
    state := .formatting, epoch := nextEpoch g.epoch, frontier := 0, fenced := false, errorCount := 0, warnReported := false }

/-- Whether FORMAT of a region cancels a job: its SCRUB and REBLANK jobs (R116, R130). -/
def formatCancels (r : RegionId) (j : Job) : Bool := j.region == r && j.kind != .format

/-- The one event of a FORMAT's acceptance (R116). DESIGN CHOICE (log entry 24): the job takes its ID, and the counter moves on, while
the SCRUB and REBLANK jobs cancelled at the event still hold theirs, an order the manual leaves open. -/
def acceptFormat (r : RegionId) (s : State) : State :=
  cancelJobs (formatCancels r)
    (finishCommand .doneOk
      (writeResults 0 [s.su.idToGive]
        (acceptJob .format r 0 (s.region r).blockCount (some (nextEpoch (s.region r).epoch))
          (s.updRegion r Region.formatted))))

/-- FORMAT of a region (R116). -/
def formatRegion (r : RegionId) (s : State) : State :=
  if (s.region r).state ≠ .online then finishCommand .refusedState s
  else if queueFull s then finishCommand .queueFull s
  else acceptFormat r s

/-- FORMAT (R116). -/
def cmdFormat (c : Command) (s : State) : State := run (onRegion c formatRegion s)

/-- A SCRUB or REBLANK of a range of a region whose state passes the command's check (R117, R118). -/
def queueRange (k : JobKind) (c : Command) (r : RegionId) (s : State) : State :=
  if c.field 5 4 = 0 ∨ (s.region r).blockCount < c.field 1 4 + c.field 5 4 then finishCommand .refusedParam s
  else if queueFull s then finishCommand .queueFull s
  else
    startNext
      (finishCommand .doneOk
        (writeResults 0 [s.su.idToGive] (acceptJob k r (c.field 1 4) (c.field 5 4) none s)))

/-- SCRUB of a region (R117). -/
def scrubRegion (c : Command) (r : RegionId) (s : State) : State :=
  if (s.region r).state ≠ .online then finishCommand .refusedState s else queueRange .scrub c r s

/-- SCRUB (R117). -/
def cmdScrub (c : Command) (s : State) : State := run (onRegion c (scrubRegion c) s)

/-- REBLANK of a region (R118). -/
def reblankRegion (c : Command) (r : RegionId) (s : State) : State :=
  if !(s.region r).state.admits then finishCommand .refusedState s else queueRange .reblank c r s

/-- REBLANK (R118). -/
def cmdReblank (c : Command) (s : State) : State := run (onRegion c (reblankRegion c) s)

/-- The job that holds an ID (R120). -/
def SweepUnit.jobOf (u : SweepUnit) (i : BitVec 8) : Option Job := u.jobs.find? (·.id == i)

/-- CANCEL SWEEP (R120). -/
def cmdCancelSweep (c : Command) (s : State) : State :=
  if c.byteAt 0 = 0 then finishCommand .refusedParam s
  else
    match s.su.jobOf (c.byteAt 0) with
    | none => finishCommand .refusedParam s
    | some j =>
      if j.kind = .format then finishCommand .refusedState s
      else run (cancelJobs (·.id == c.byteAt 0) (finishCommand .doneOk s))

/-- SET PACING (R121). -/
def cmdSetPacing (c : Command) (s : State) : State :=
  if 65535 < c.field 0 4 then finishCommand .refusedParam s
  else finishCommand .doneOk (s.withSu { s.su with pacing := c.field 0 4 })

/-- QUERY SWEEP (R122, R188). -/
def cmdQuerySweep (s : State) : State := finishCommand .doneOk (writeResults 0 s.su.snapshot s)

/-! ## FLUSH (R109) -/

/-- FLUSH (R109). -/
def cmdFlush (c : Command) (s : State) : State :=
  match scopeCode (c.field 0 1) with
  | none => finishCommand .refusedParam s
  | some scope => makeFlush .command scope (startLong .flush s)

/-! ## SET TIMEOUT and SET SWEEP SHARE (R167, R168) -/

/-- SET TIMEOUT (R167). -/
def cmdSetTimeout (c : Command) (s : State) : State :=
  if c.field 0 2 = 0 ∨ 1023 < c.field 0 2 then finishCommand .refusedParam s
  else finishCommand .doneOk (s.withMa { s.ma with timeout := c.field 0 2 })

/-- SET SWEEP SHARE (R168). -/
def cmdSetSweepShare (c : Command) (s : State) : State :=
  if c.field 0 1 = 0 ∨ 16 < c.field 0 1 then finishCommand .refusedParam s
  else finishCommand .doneOk (s.withMa { s.ma with share := c.field 0 1 })

/-! ## Event Log commands (R177 to R179) -/

/-- SET LOG MASK (R177). -/
def cmdSetLogMask (c : Command) (s : State) : State :=
  match settingCode (c.field 0 1), settingCode (c.field 1 1), settingCode (c.field 2 1) with
  | some d, some u, some m => finishCommand .doneOk (s.withEl { s.el with logMask := ⟨d, u, m⟩ })
  | _, _, _ => finishCommand .refusedParam s

/-- SET ALERT MASK (R178). -/
def cmdSetAlertMask (c : Command) (s : State) : State :=
  match c.codes settingCode 0 22 with
  | some bs =>
    finishCommand .doneOk
      (s.withEl (EventLog.refresh { s.el with alertMask := Vector.ofFn fun i => bs.getD i.val false }))
  | none => finishCommand .refusedParam s

/-- CLEAR LOG OVERFLOW (R179). -/
def cmdClearLogOverflow (s : State) : State :=
  finishCommand .doneOk (s.withEl (EventLog.refresh { s.el with dropped := 0, overflow := false }))

/-! ## RESET ENGINE (R186) -/

/-- The slots and requests the reset waits for are marked (R157, R169). -/
def markReset (s : State) : State :=
  (s.withTu { s.tu with slots := s.tu.slots.map fun sl => { sl with inReset := sl.state != .free } }).withMa
    { s.ma.mapRequests (fun q => { q with inReset := true }) with
      tags := s.ma.tags.map fun t =>
        { t with request := t.request.map fun q => { q with inReset := t.state == .inFlight } } }

/-- Every region in service enters DRAINING, at one event (R144). -/
def drainRegions (s : State) : State :=
  s.withRu { s.ru with regions := s.ru.regions.map fun g => if g.state.drainable then g.beginDrain else g }

/-- The regions that are DRAINING. DESIGN CHOICE (log entry 24): drains begun at one event are looked at in ascending region number,
an order the manual leaves open. -/
def drainingRegions (s : State) : List RegionId := allRegions.filter fun r => (s.region r).state == .draining

/-- Each drain looks at its entry count (R134). -/
def checkDrains (s : State) : State := s.push ((drainingRegions s).map .drainCheck)

/-- The one event of RESET ENGINE's acceptance (R186). -/
def acceptReset (s : State) : State :=
  checkDrains (abandonAll (cancelJobs (fun _ => true) (drainRegions (markReset (startLong (.resetEngine false) s)))))

/-- RESET ENGINE (R186). -/
def cmdResetEngine (s : State) : State := run (acceptReset s)

end Sys2Proof.Machine
end

