-- ==== Sys2Proof/Machine/ManagementPort.lean ====
section
/-! DEFINITION. The Management Port (chapter 12): the two-wire target, the register window, the mailbox, the log-head read, and the
rows of the table that are bytes or conditions of the bus (log entry 9). -/

namespace Sys2Proof.Machine

/-! ## The mailbox (R181, R184) -/

/-- The command register is written with the mailbox IDLE or DONE: the parameters are copied, the result code is 0, the mailbox
BUSY (R181). -/
def handOver (code : Byte) (s : State) : State :=
  s.withMp { s.mp with mailbox := .busy, result := .noResult, command := some ⟨code, s.mp.params⟩ }

/-- The owner takes the command, by its code (R181, 12.4.2). -/
def runCommand (c : Command) (s : State) : State :=
  match c.code.toNat with
  | 0x01 => cmdDefineRegion c s
  | 0x02 => cmdClearRegion c s
  | 0x03 => cmdQueryRegion c s
  | 0x04 => cmdSetAccess c s
  | 0x05 => cmdMapRequester c s
  | 0x06 => cmdSetUnmappedPolicy c s
  | 0x07 => cmdActivate c s
  | 0x08 => cmdDeactivate c s
  | 0x09 => cmdUnfence c s
  | 0x0A => cmdSetHealth c s
  | 0x0B => cmdClearHealth c s
  | 0x0C => cmdLockHealth c s
  | 0x0D => cmdFormat c s
  | 0x0E => cmdScrub c s
  | 0x0F => cmdReblank c s
  | 0x10 => cmdCancelSweep c s
  | 0x11 => cmdSetPacing c s
  | 0x12 => cmdQuerySweep s
  | 0x13 => cmdFlush c s
  | 0x14 => cmdSetTimeout c s
  | 0x15 => cmdSetSweepShare c s
  | 0x16 => cmdSetLogMask c s
  | 0x17 => cmdSetAlertMask c s
  | 0x18 => cmdClearLogOverflow s
  | 0x19 => cmdResetEngine s
  | _ => finishCommand .refusedParam s

/-- A command written while the mailbox is BUSY is ignored: the overrun flag is set and MAILBOX_OVERRUN offered (R184). -/
def overrun (s : State) : State :=
  offer (Record.plain .mailboxOverrun .management) (s.withMp { s.mp with overrun := true })

/-- The command register is written (R181, R184). -/
def writeCommand (code : Byte) (s : State) : State :=
  if s.mp.mailbox = .busy then overrun s else runCommand ⟨code, s.mp.params⟩ (handOver code s)

/-- The mailbox status register is written, with any value (R184). -/
def writeStatus (s : State) : State :=
  s.withMp { s.mp with overrun := false, mailbox := if s.mp.mailbox = .done then .idle else s.mp.mailbox }

/-! ## The register window (R180, R187, 12.4.1) -/

/-- A byte is written to the register at an offset: read-only registers and empty offsets take it without effect (R180). -/
def writeRegister (off v : Byte) (s : State) : State :=
  if off = 0x10 then writeStatus s
  else if off = 0x12 then writeCommand v s
  else if off = 0xF0 then s.withEl s.el.acknowledge
  else if 0x14 ≤ off.toNat ∧ off.toNat < 0x30 then
    s.withMp { s.mp with params := writeAt (off.toNat - 0x14) [v] s.mp.params }
  else s

/-- The identification constants at offsets 0x00 to 0x0C (R187). -/
def identification : List Byte :=
  leBytes 2 Config.vendorCode ++ leBytes 2 Config.partCode ++ leBytes 1 Config.revision ++
    Config.capabilities.flatMap (leBytes 1)

/-- Whether an offset lies in the log-head window (12.4.1). -/
def inWindow (off : Byte) : Bool := decide (0xB0 ≤ off.toNat) && decide (off.toNat < 0xF0)

/-- Whether an offset holds a register that is written only (12.4.1). -/
def writeOnly (off : Byte) : Bool := off == 0x12 || off == 0xF0

/-- The byte the register at an offset reads as; a write-only register reads as a free value (log entry 19), an empty offset
as 0 (R180). The window is the one taken by the transfer (R187). -/
def readRegister (s : State) (window : List Byte) (off : Byte) : Byte :=
  if off.toNat < 0x0D then identification.getD off.toNat 0
  else if off = 0x10 then BitVec.ofNat 8 s.mp.statusByte
  else if off = 0x11 then BitVec.ofNat 8 s.mp.result.code
  else if writeOnly off then Config.freeByte s.free
  else if 0x14 ≤ off.toNat ∧ off.toNat < 0x30 then s.mp.params.toList.getD (off.toNat - 0x14) 0
  else if 0x30 ≤ off.toNat ∧ off.toNat < 0xB0 then s.mp.results.toList.getD (off.toNat - 0x30) 0
  else if inWindow off then window.getD (off.toNat - 0xB0) 0
  else 0

/-! ## Bytes and conditions on the bus (R180) -/

/-- Something is put on the bus. -/
def putBus (b : BusOut) (s : State) : State := s.withOut { s.out with bus := s.out.bus ++ [b] }

/-- `s` with the phase of its transfer replaced. -/
def State.withPhase (s : State) (p : BusPhase) : State := s.withMp { s.mp with phase := p }

/-- `s` with its register offset replaced. -/
def State.withOffset (s : State) (o : Byte) : State := s.withMp { s.mp with offset := o }

/-- Whether an address byte names this target: its seven address bits stand above the direction bit (R180, log entry 10). -/
def namesTarget (s : State) (v : Byte) : Bool := v.toNat / 2 == 0x2C + s.mp.strap.toNat

/-- The first byte of a transfer: acknowledged when it names this target, otherwise ignored to the stop condition (R180). -/
def takeAddress (v : Byte) (s : State) : State :=
  if namesTarget s v then putBus (.ackBit true) (s.withPhase (if v.getLsbD 0 then .reading else .offset))
  else putBus (.ackBit false) (s.withPhase .ignored)

/-- The byte after the address of a write transfer: the register offset (R180). -/
def takeOffset (v : Byte) (s : State) : State := putBus (.ackBit true) ((s.withOffset v).withPhase .writing)

/-- The state in which a data byte's register write has its effect: the byte acknowledged, the offset risen by one (R180). -/
def acceptData (s : State) : State := putBus (.ackBit true) (s.withOffset (s.mp.offset + 1))

/-- A data byte of a write transfer: written to the register at the offset (R180). -/
def takeData (v : Byte) (s : State) : State := writeRegister s.mp.offset v (acceptData s)

/-- A byte sent by the controller, taken by the phase of the transfer (R180); none is taken while PORST# is asserted (R190). -/
def takeByte (v : Byte) (s : State) : State :=
  if s.pins.porst then s
  else
    match s.mp.phase with
    | .address => takeAddress v s
    | .offset => takeOffset v s
    | .writing => takeData v s
    | .idle | .ignored | .reading | .readEnded => s

/-- The window as the transfer sees it: as taken before, or taken now (R187). -/
def State.windowNow (s : State) : List Byte := s.mp.window.getD s.el.window

/-- A byte is placed on the bus in a read transfer: the window is taken with its first byte, the offset rises by one, and an
unacknowledged byte is the last (R180, R187). -/
def placeByte (more : Bool) (s : State) : State :=
  putBus (.byte (readRegister s s.windowNow s.mp.offset))
    ((s.withMp { s.mp with
        offset := s.mp.offset + 1
        phase := if more then .reading else .readEnded
        window := if inWindow s.mp.offset then some s.windowNow else s.mp.window }).withFree
      (s.free + bit (writeOnly s.mp.offset)))

/-- LOG_HEAD_READ (R187, R180). -/
def execLogHeadRead (more : Bool) (s : State) : Host.Outcome State Fault Refusal :=
  .next (if s.pins.porst = false ∧ s.mp.phase = .reading then placeByte more s else s)

/-- START_CONDITION (R180): a transfer opens, ending any in progress. -/
def execStartCondition (s : State) : Host.Outcome State Fault Refusal :=
  .next (if s.pins.porst then s else s.withMp { s.mp with phase := .address, window := none })

/-- STOP_CONDITION (R180): the transfer in progress ends. -/
def execStopCondition (s : State) : Host.Outcome State Fault Refusal :=
  .next (if s.pins.porst then s else s.withMp { s.mp with phase := .idle, window := none })

/-- TARGET_ADDRESS_BYTE (R180). -/
def execTargetAddressByte (v : Byte) (s : State) : Host.Outcome State Fault Refusal := .next (takeByte v s)

/-- REGISTER_OFFSET_BYTE (R180). -/
def execRegisterOffsetByte (v : Byte) (s : State) : Host.Outcome State Fault Refusal := .next (takeByte v s)

/-- REGISTER_WRITE (R180). -/
def execRegisterWrite (v : Byte) (s : State) : Host.Outcome State Fault Refusal := .next (takeByte v s)

/-- STATUS_WRITE (R184). -/
def execStatusWrite (v : Byte) (s : State) : Host.Outcome State Fault Refusal := .next (takeByte v s)

/-- ACK (R175). -/
def execAck (v : Byte) (s : State) : Host.Outcome State Fault Refusal := .next (takeByte v s)

/-- UNKNOWN_COMMAND (R181). -/
def execUnknownCommand (code : Byte) (s : State) : Host.Outcome State Fault Refusal := .next (takeByte code s)

/-- MAILBOX_OVERRUN (R184). -/
def execMailboxOverrun (code : Byte) (s : State) : Host.Outcome State Fault Refusal := .next (takeByte code s)

/-! ## The mailbox commands: the byte of the code, on the bus (12.4.2) -/

/-- DEFINE_REGION (R11 to R13): the byte 0x01. -/
def execDefineRegion (s : State) : Host.Outcome State Fault Refusal := .next (takeByte 0x01 s)

/-- CLEAR_REGION (R14): the byte 0x02. -/
def execClearRegion (s : State) : Host.Outcome State Fault Refusal := .next (takeByte 0x02 s)

/-- QUERY_REGION (R18): the byte 0x03. -/
def execQueryRegion (s : State) : Host.Outcome State Fault Refusal := .next (takeByte 0x03 s)

/-- SET_ACCESS (R15): the byte 0x04. -/
def execSetAccess (s : State) : Host.Outcome State Fault Refusal := .next (takeByte 0x04 s)

/-- MAP_REQUESTER (R16): the byte 0x05. -/
def execMapRequester (s : State) : Host.Outcome State Fault Refusal := .next (takeByte 0x05 s)

/-- SET_UNMAPPED_POLICY (R17): the byte 0x06. -/
def execSetUnmappedPolicy (s : State) : Host.Outcome State Fault Refusal := .next (takeByte 0x06 s)

/-- ACTIVATE (R132): the byte 0x07. -/
def execActivate (s : State) : Host.Outcome State Fault Refusal := .next (takeByte 0x07 s)

/-- DEACTIVATE (R133): the byte 0x08. -/
def execDeactivate (s : State) : Host.Outcome State Fault Refusal := .next (takeByte 0x08 s)

/-- UNFENCE (R140): the byte 0x09. -/
def execUnfence (s : State) : Host.Outcome State Fault Refusal := .next (takeByte 0x09 s)

/-- SET_HEALTH (R141): the byte 0x0A. -/
def execSetHealth (s : State) : Host.Outcome State Fault Refusal := .next (takeByte 0x0A s)

/-- CLEAR_HEALTH (R142): the byte 0x0B. -/
def execClearHealth (s : State) : Host.Outcome State Fault Refusal := .next (takeByte 0x0B s)

/-- LOCK_HEALTH (R143): the byte 0x0C. -/
def execLockHealth (s : State) : Host.Outcome State Fault Refusal := .next (takeByte 0x0C s)

/-- FORMAT (R116): the byte 0x0D. -/
def execFormat (s : State) : Host.Outcome State Fault Refusal := .next (takeByte 0x0D s)

/-- SCRUB (R117): the byte 0x0E. -/
def execScrub (s : State) : Host.Outcome State Fault Refusal := .next (takeByte 0x0E s)

/-- REBLANK (R118): the byte 0x0F. -/
def execReblank (s : State) : Host.Outcome State Fault Refusal := .next (takeByte 0x0F s)

/-- CANCEL_SWEEP (R120): the byte 0x10. -/
def execCancelSweep (s : State) : Host.Outcome State Fault Refusal := .next (takeByte 0x10 s)

/-- SET_PACING (R121): the byte 0x11. -/
def execSetPacing (s : State) : Host.Outcome State Fault Refusal := .next (takeByte 0x11 s)

/-- QUERY_SWEEP (R122): the byte 0x12. -/
def execQuerySweep (s : State) : Host.Outcome State Fault Refusal := .next (takeByte 0x12 s)

/-- FLUSH (R109): the byte 0x13. -/
def execFlush (s : State) : Host.Outcome State Fault Refusal := .next (takeByte 0x13 s)

/-- SET_TIMEOUT (R167): the byte 0x14. -/
def execSetTimeout (s : State) : Host.Outcome State Fault Refusal := .next (takeByte 0x14 s)

/-- SET_SWEEP_SHARE (R168): the byte 0x15. -/
def execSetSweepShare (s : State) : Host.Outcome State Fault Refusal := .next (takeByte 0x15 s)

/-- SET_LOG_MASK (R177): the byte 0x16. -/
def execSetLogMask (s : State) : Host.Outcome State Fault Refusal := .next (takeByte 0x16 s)

/-- SET_ALERT_MASK (R178): the byte 0x17. -/
def execSetAlertMask (s : State) : Host.Outcome State Fault Refusal := .next (takeByte 0x17 s)

/-- CLEAR_LOG_OVERFLOW (R179): the byte 0x18. -/
def execClearLogOverflow (s : State) : Host.Outcome State Fault Refusal := .next (takeByte 0x18 s)

/-- RESET_ENGINE (R186): the byte 0x19. -/
def execResetEngine (s : State) : Host.Outcome State Fault Refusal := .next (takeByte 0x19 s)

end Sys2Proof.Machine
end

