-- ==== Sys2Proof/Machine/Resets.lean ====
section
/-! DEFINITION. The reset pins (9.6, 12.5): fabric reset and power-on reset. -/

namespace Sys2Proof.Machine

/-- FRST# is asserted: every slot not FREE is abandoned, and the upstream port accepts nothing (R155, R156). -/
def assertFrst (s : State) : State := run (abandonAll (s.withPins { s.pins with frst := true }))

/-- FRST_ASSERTED (R155). -/
def execFrstAsserted (s : State) : Host.Outcome State Fault Refusal := .next (assertFrst s)

/-- FRST_RELEASED (R156). -/
def execFrstReleased (s : State) : Host.Outcome State Fault Refusal := .next (s.withPins { s.pins with frst := false })

/-- The management port as PORST# leaves it while asserted: no transfer is answered, and a long command's work is lost
(R186, R190). -/
def ManagementPort.lost (m : ManagementPort) : ManagementPort := { m with phase := .idle, window := none, long := none }

/-- PORST# is asserted: the work in every unit is lost, ALERT# is not driven (R56, R72, R94, R95, R158, R160, R190). -/
def assertPorst (s : State) : State :=
  { s with
    tu := .powerOn
    obt := .powerOn
    tc := .powerOn
    su := .powerOn
    ma := .powerOn
    el := { s.el with alert := false }
    mp := s.mp.lost
    pins := { s.pins with porst := true }
    work := [] }

/-- PORST_ASSERTED (R158). -/
def execPorstAsserted (s : State) : Host.Outcome State Fault Refusal := .next (assertPorst s)

/-- PORST# is released: every unit takes its power-on values, and the straps are sampled (R180, R190). -/
def releasePorst (addr : BitVec 2) (s : State) : State :=
  { s with
    tu := .powerOn
    ru := .powerOn
    obt := .powerOn
    tc := .powerOn
    su := .powerOn
    ma := .powerOn
    el := .powerOn
    mp := .powerOn addr
    pins := { s.pins with porst := false }
    work := [] }

/-- PORST_RELEASED (R190); a release of a pin not asserted is no event. -/
def execPorstReleased (addr : BitVec 2) (s : State) : Host.Outcome State Fault Refusal :=
  .next (if s.pins.porst then releasePorst addr s else s)

end Sys2Proof.Machine
end

