-- ==== Sys2Proof/Machine/Dispatch.lean ====
section
/-! DEFINITION. One arm a command of the table, each a direct call of its meaning. -/

namespace Sys2Proof.Machine

def exec (i : Instr) (s : State) : Host.Outcome State Fault Refusal :=
  match i with
  | .readRequest q t a n => Sys2Proof.Machine.execReadRequest q t a n s
  | .writeRequest q t a d e => Sys2Proof.Machine.execWriteRequest q t a d e s
  | .responseSent => Sys2Proof.Machine.execResponseSent s
  | .admissionExamination => Sys2Proof.Machine.execAdmissionExamination s
  | .bufferWaitExamination => Sys2Proof.Machine.execBufferWaitExamination s
  | .allocationExamination => Sys2Proof.Machine.execAllocationExamination s
  | .retryTimerExpiry l => Sys2Proof.Machine.execRetryTimerExpiry l s
  | .flush => Sys2Proof.Machine.execFlush s
  | .pacingTimerExpiry => Sys2Proof.Machine.execPacingTimerExpiry s
  | .format => Sys2Proof.Machine.execFormat s
  | .scrub => Sys2Proof.Machine.execScrub s
  | .reblank => Sys2Proof.Machine.execReblank s
  | .cancelSweep => Sys2Proof.Machine.execCancelSweep s
  | .setPacing => Sys2Proof.Machine.execSetPacing s
  | .querySweep => Sys2Proof.Machine.execQuerySweep s
  | .defineRegion => Sys2Proof.Machine.execDefineRegion s
  | .clearRegion => Sys2Proof.Machine.execClearRegion s
  | .setAccess => Sys2Proof.Machine.execSetAccess s
  | .mapRequester => Sys2Proof.Machine.execMapRequester s
  | .setUnmappedPolicy => Sys2Proof.Machine.execSetUnmappedPolicy s
  | .queryRegion => Sys2Proof.Machine.execQueryRegion s
  | .activate => Sys2Proof.Machine.execActivate s
  | .deactivate => Sys2Proof.Machine.execDeactivate s
  | .unfence => Sys2Proof.Machine.execUnfence s
  | .setHealth => Sys2Proof.Machine.execSetHealth s
  | .clearHealth => Sys2Proof.Machine.execClearHealth s
  | .lockHealth => Sys2Proof.Machine.execLockHealth s
  | .requestGrant => Sys2Proof.Machine.execRequestGrant s
  | .downstreamResponse t ok d => Sys2Proof.Machine.execDownstreamResponse t ok d s
  | .responseTimerExpiry t => Sys2Proof.Machine.execResponseTimerExpiry t s
  | .quarantineTimerExpiry t => Sys2Proof.Machine.execQuarantineTimerExpiry t s
  | .setTimeout => Sys2Proof.Machine.execSetTimeout s
  | .setSweepShare => Sys2Proof.Machine.execSetSweepShare s
  | .ack v => Sys2Proof.Machine.execAck v s
  | .logHeadRead m => Sys2Proof.Machine.execLogHeadRead m s
  | .setLogMask => Sys2Proof.Machine.execSetLogMask s
  | .setAlertMask => Sys2Proof.Machine.execSetAlertMask s
  | .clearLogOverflow => Sys2Proof.Machine.execClearLogOverflow s
  | .unknownCommand c => Sys2Proof.Machine.execUnknownCommand c s
  | .mailboxOverrun c => Sys2Proof.Machine.execMailboxOverrun c s
  | .statusWrite v => Sys2Proof.Machine.execStatusWrite v s
  | .registerWrite v => Sys2Proof.Machine.execRegisterWrite v s
  | .resetEngine => Sys2Proof.Machine.execResetEngine s
  | .frstAsserted => Sys2Proof.Machine.execFrstAsserted s
  | .frstReleased => Sys2Proof.Machine.execFrstReleased s
  | .porstAsserted => Sys2Proof.Machine.execPorstAsserted s
  | .porstReleased a => Sys2Proof.Machine.execPorstReleased a s
  | .startCondition => Sys2Proof.Machine.execStartCondition s
  | .stopCondition => Sys2Proof.Machine.execStopCondition s
  | .targetAddressByte v => Sys2Proof.Machine.execTargetAddressByte v s
  | .registerOffsetByte v => Sys2Proof.Machine.execRegisterOffsetByte v s

end Sys2Proof.Machine
end

