-- ==== Sys2Proof/Safety.lean ====
section
/-! DEFINITION. What the manual's laws say of one state: the invariants the statements are about. -/

namespace Sys2Proof.Machine

/-! ## The Event Log (Law 11, R174, R176) -/

/-- The sequence numbers of a log rise by one from record to record, and the last is one below the counter (R174). -/
def seqOk (counter : BitVec 16) : List Record → Prop
  | [] => True
  | [r] => r.seq + 1 = counter
  | r :: q :: rest => r.seq + 1 = q.seq ∧ seqOk counter (q :: rest)

/-- Law 11 for one event log: at most 32 records, their sequence numbers rising by one from head to tail, modulo 65536 (R174);
repeat counts 1 to 255 (R173). -/
def EventLog.Law (e : EventLog) : Prop :=
  e.log.length ≤ 32 ∧ seqOk e.seq e.log ∧ ∀ r ∈ e.log, 1 ≤ r.repeatCount ∧ r.repeatCount ≤ 255

/-- Law 11 of the machine's event log. -/
def logLaw (s : State) : Prop := s.el.Law

/-- Unless PORST# is asserted, ALERT# is asserted exactly while its condition holds (R176). -/
def alertLaw (s : State) : Prop := s.pins.porst = false → s.el.alert = s.el.condition

/-! ## The Open Block Table (Laws 1 and 2, R35 to R38) -/

/-- Law 1 for one entry: an exclusive holder stands alone (R37). -/
def Entry.exclusiveAlone (e : Entry) : Prop := ∀ h ∈ e.holders, h.2 = .exclusive → e.holders = [h]

/-- The block key of an entry. -/
def Entry.key (e : Entry) : RegionId × Nat := (e.region, e.block)

/-- Law 1 and, of Law 2, what a list of entries shows: every entry has a holder or a waiter, an exclusive holder stands alone, and no
two entries have the same block key (R35 to R37). -/
def EntriesLaw (es : List Entry) : Prop :=
  (∀ e ∈ es, e.occupied = true ∧ e.exclusiveAlone) ∧ (es.map Entry.key).Nodup

/-- The entries of the machine's table keep that law. -/
def entriesLaw (s : State) : Prop :=
  EntriesLaw s.obt.entries

/-- Law 2's bound on upstream entries: U is at most 31 (R36). -/
def upstreamLaw (s : State) : Prop := s.obt.upstream ≤ 31

/-! ## The memory port (R160, R163, R164) -/

/-- A downstream tag's fields agree with its state (10.2.1, Table 10-2); a FREE tag's timeout value is 0 (log entry 25). -/
def DownTag.consistent (d : DownTag) : Prop :=
  match d.state with
  | .free => d = .powerOn
  | .inFlight => d.request.isSome = true ∧ d.responseTimer = some d.timeout ∧ d.quarantineTimer = none
  | .quarantined => d.request.isSome = true ∧ d.responseTimer = none ∧ d.quarantineTimer = some (8 * d.timeout)

/-- Every downstream tag's fields agree with its state (R160, R163, R164). -/
def tagsLaw (s : State) : Prop := ∀ t, (s.downTag t).consistent

/-! ## The sweep queue and the programmed values (R113, R121, R162, R167, R168) -/

/-- The job queue holds at most 4 jobs, their IDs distinct and 1 to 255, and the counter holds an ID 1 to 255 (R113). -/
def jobsLaw (s : State) : Prop :=
  s.su.jobs.length ≤ 4 ∧ (s.su.jobs.map (·.id)).Nodup ∧ 0 ∉ s.su.jobs.map (·.id) ∧ s.su.nextId ≠ 0

/-- The job ID `n` steps after `i`, where 255 is followed by 1 (R113). -/
def idSteps : Nat → BitVec 8 → BitVec 8
  | 0, i => i
  | n + 1, i => idSteps n (if i = 255 then 1 else i + 1)

/-- The programmed values stay in their ranges, and the sweep-share counter at or below 16. -/
def rangesLaw (s : State) : Prop :=
  1 ≤ s.ma.timeout ∧ s.ma.timeout ≤ 1023 ∧ 1 ≤ s.ma.share ∧ s.ma.share ≤ 16 ∧ s.ma.shareCounter ≤ 16 ∧ s.su.pacing ≤ 65535

/-! ## What outlives everything but a power-on reset (R143) -/

/-- The part of a region record that a health lock freezes (R143). -/
def Region.lockedPart (g : Region) : Nat × Nat × Bool × Bool :=
  (g.warnThreshold, g.fenceThreshold, g.fenceEnable, g.healthLocked)

/-- Two records of a region with the same definition: all that DEFINE REGION, SET ACCESS and the health settings give it (R13, R15,
R141, R143), with the epoch, which FORMAT alone moves (R23). -/
def Region.sameDefinition (g h : Region) : Prop :=
  g.label = h.label ∧ g.base = h.base ∧ g.size = h.size ∧ g.blockSize = h.blockSize ∧ g.blockCount = h.blockCount ∧
    g.tagBase = h.tagBase ∧ g.epoch = h.epoch ∧ g.seed = h.seed ∧ g.checkSet = h.checkSet ∧ g.readAction = h.readAction ∧
    g.mergeMode = h.mergeMode ∧ g.tagPolicy = h.tagPolicy ∧ g.permissions = h.permissions ∧ g.lockedPart = h.lockedPart

/-! ## The mailbox and the power-on pin (R182, R190) -/

/-- Unless PORST# is asserted, the mailbox is BUSY between steps exactly while a long command's work goes on (R182). -/
def longLaw (s : State) : Prop := s.pins.porst = false → (s.mp.mailbox = .busy ↔ s.mp.long.isSome = true)

/-- What PORST# leaves while it is asserted: no transfer, no ALERT#, no work in any unit (R158, R160, R190). -/
def heldLaw (s : State) : Prop :=
  s.pins.porst = true →
    s.tu = .powerOn ∧ s.obt = .powerOn ∧ s.tc = .powerOn ∧ s.su = .powerOn ∧ s.ma = .powerOn ∧ s.el.alert = false ∧
      s.mp.phase = .idle ∧ s.mp.long = none ∧ s.work = []

/-! ## Definedness of the Region Table (R12) -/

/-- Two different defined regions neither overlap nor share a label (R12). -/
def regionsDisjoint (s : State) : Prop :=
  ∀ r q, r ≠ q → (s.region r).isDefined = true → (s.region r).conflicts (s.region q) = false

/-! ## How the statements speak of the bus, the mailbox and an arrival -/

/-- The byte of a mailbox command on the bus: the code of 12.4.2, or the code an UNKNOWN_COMMAND or MAILBOX_OVERRUN carries. -/
def commandCode : Instr → Option Byte
  | .defineRegion => some 0x01
  | .clearRegion => some 0x02
  | .queryRegion => some 0x03
  | .setAccess => some 0x04
  | .mapRequester => some 0x05
  | .setUnmappedPolicy => some 0x06
  | .activate => some 0x07
  | .deactivate => some 0x08
  | .unfence => some 0x09
  | .setHealth => some 0x0A
  | .clearHealth => some 0x0B
  | .lockHealth => some 0x0C
  | .format => some 0x0D
  | .scrub => some 0x0E
  | .reblank => some 0x0F
  | .cancelSweep => some 0x10
  | .setPacing => some 0x11
  | .querySweep => some 0x12
  | .flush => some 0x13
  | .setTimeout => some 0x14
  | .setSweepShare => some 0x15
  | .setLogMask => some 0x16
  | .setAlertMask => some 0x17
  | .clearLogOverflow => some 0x18
  | .resetEngine => some 0x19
  | .unknownCommand code | .mailboxOverrun code => some code
  | _ => none

/-- The byte a bus row carries: a command's code, or the value of an ACK, a status write, a register write, an address byte or
an offset byte. -/
def busByte : Instr → Option Byte
  | .ack v | .statusWrite v | .registerWrite v | .targetAddressByte v | .registerOffsetByte v => some v
  | c => commandCode c

/-- A byte now sent by the controller is written to the register at offset `off` (R180). -/
def State.writingAt (s : State) (off : Byte) : Prop := s.pins.porst = false ∧ s.mp.phase = .writing ∧ s.mp.offset = off

/-- A command code now sent by the controller is handed to its owner (R181). -/
def State.takesCommand (s : State) : Prop := s.writingAt 0x12 ∧ s.mp.mailbox ≠ .busy

/-- A field of `n` bytes of the parameter registers (12.4.2). -/
def State.param (s : State) (off n : Nat) : Nat := leNat (slice off n s.mp.params.toList)

/-- `s` after a written byte with no effect of its own: acknowledged, the offset risen by one (R180). -/
def State.acked (s : State) : State :=
  { s with mp := { s.mp with offset := s.mp.offset + 1 }, out := { s.out with bus := s.out.bus ++ [.ackBit true] } }

/-- `s` after a command that ended at its hand-over with a result code and did nothing else (R181, R183). -/
def State.ended (s : State) (code : ResultCode) : State :=
  { s.acked with mp := { s.acked.mp with mailbox := .done, result := code, command := none, long := none } }

/-- `s` with a long command accepted: the mailbox BUSY, the parameters copied (R181, R182). -/
def State.started (s : State) (code : Byte) (long : LongCommand) : State :=
  { s.acked with
    mp := { s.acked.mp with mailbox := .busy, result := .noResult, command := some ⟨code, s.mp.params⟩, long := some long } }

/-- A slot's fields as an arriving request fills them (R148). -/
def requestSlot : Instr → Option Slot
  | .readRequest q t a n =>
    some { Slot.powerOn with state := .classified, requester := q, tid := t, kind := .read, address := a, length := n }
  | .writeRequest q t a data enables =>
    some { Slot.powerOn with
      state := .classified, requester := q, tid := t, kind := .write, address := a, length := data.length, data := data
      enables := enables }
  | _ => none

/-- The upstream port accepts a request now, into slot `i`, the lowest-numbered FREE one (R145). -/
def State.accepts (s : State) (i : SlotId) : Prop :=
  s.pins.porst = false ∧ s.pins.frst = false ∧ (s.slot i).state = .free ∧ ∀ j, j < i → (s.slot j).state ≠ .free

/-- `s` after slot `i` took a request and was refused at once (R150): the response formed, a record offered. -/
def State.refusedAtArrival (s : State) (i : SlotId) (sl : Slot) (st : Status) (region recordRegion : Option RegionId)
    (block : Option Nat) : State :=
  { s with
    tu := {
      slots := vset s.tu.slots i { sl with
        state := .responding, cls := some (.refused st), region := region
        response := some ⟨sl.requester, sl.tid, sl.kind, st, false,
          match sl.kind with
          | .read => List.replicate (min sl.length 256) 0
          | .write => []⟩ }
      responses := s.tu.responses ++ [i] }
    el := s.el.offer { Record.plain st.recordKind .transaction with
      who := some (sl.requester, sl.tid), region := recordRegion, block := block } }

/-- A request is MALFORMED (R149). -/
def State.isMalformed (s : State) (sl : Slot) : Prop :=
  sl.length = 0 ∨ 256 < sl.length ∨ sl.address.toNat / 4096 ≠ (sl.address.toNat + sl.length - 1) / 4096 ∨
    (sl.kind = .write ∧ ∀ e ∈ sl.enables, e = false) ∨
    ∃ j, ((s.slot j).state = .admitting ∨ (s.slot j).state = .active ∨ (s.slot j).state = .passing ∨
        (s.slot j).state = .responding) ∧ (s.slot j).requester = sl.requester ∧ (s.slot j).tid = sl.tid

/-- A byte of a request lies in the tag area of a defined region (R9 step 1). -/
def State.touchesTags (s : State) (sl : Slot) (r : RegionId) : Prop :=
  (s.region r).state ≠ .empty ∧ sl.address.toNat < (s.region r).tagBase + (s.region r).tagBytes ∧
    (s.region r).tagBase < sl.address.toNat + sl.length

/-- An address lies in a defined region's data range (R9 step 2). -/
def State.inRange (s : State) (a : Nat) (r : RegionId) : Prop :=
  (s.region r).state ≠ .empty ∧ (s.region r).base ≤ a ∧ a < (s.region r).base + (s.region r).size

/-- A request gets past steps 1 and 2 of the lookup into region `r`: it is well formed, touches no tag area, and `r` is the only
region whose data range holds its address (R9, R12). -/
def State.reaches (s : State) (sl : Slot) (r : RegionId) : Prop :=
  ¬ s.isMalformed sl ∧ (∀ q, ¬ s.touchesTags sl q) ∧ s.inRange sl.address.toNat r ∧
    ∀ q, s.inRange sl.address.toNat q → q = r

/-- The partition a slot's requester maps to (R6). -/
def State.partitionOf (s : State) (sl : Slot) : Option (Fin 8) := vget s.ru.requesterMap (Fin.ofNat 64 sl.requester.toNat)

/-- `s` with part `k` of slot `i` replaced. -/
def State.withPart (s : State) (i : SlotId) (k : Nat) (p : Part) : State :=
  { s with tu := { s.tu with slots := vset s.tu.slots i { s.slot i with parts := (s.slot i).parts.set k p } } }

/-- `st` is the status a protected request is answered with: MEMORY_FAULT if a part has that outcome, else CHECK_FAIL if one has
that, else OKAY (R68, R89). -/
def Slot.answers (sl : Slot) (st : Status) : Prop :=
  ((∃ p ∈ sl.parts, p.outcome = .memoryFault) → st = .memoryFault) ∧
  ((∀ p ∈ sl.parts, p.outcome ≠ .memoryFault) →
    ((∃ p ∈ sl.parts, p.outcome = .checkFail) → st = .checkFail) ∧ ((∀ p ∈ sl.parts, p.outcome ≠ .checkFail) → st = .okay))

/-- Whether a permission refuses a request (R9 step 4). -/
def Permission.deniesKind (p : Permission) (k : Kind) : Prop := p = .none ∨ (p = .read ∧ k = .write)

end Sys2Proof.Machine
end

