-- ==== Sys2Proof/Certificates/Slice0/Obligations.lean ====
section
/-! DEFINITION. The statements for the provers: what each command does, from the numbered rules of spec/, and the laws every
step keeps. A statement that gives a whole next state gives the frame with it: a field it does not name is unchanged. -/

open Sys2Proof Sys2Proof.Machine

/-! ## The step and reset -/

/-- The command at the front of the queue is run on the state with the queue's rest; an empty queue idles, which is the model's
choice (log entry 1). -/
def Obligations.StepRunsTheFrontCommand : Prop :=
  (∀ (c : Instr) (rest : List Instr) (s : State), s.pending = c :: rest → step s = exec c (s.withPending rest)) ∧
  ∀ s : State, s.pending = [] → step s = .next s

/-- The power-on values of Tables 1-1 and 6-1 and of R6, R8, R39, R56, R95, R113, R147, R158, R160, R162, R169, R170, R180, R185. The
fields of a FREE slot that R147 calls absent and that hold a number here are 0 (log entry 6). -/
def Obligations.ResetLeavesPowerOnValues : Prop :=
  (∀ r : RegionId,
    (State.reset.region r).state = .empty ∧ (State.reset.region r).label = 0 ∧ (State.reset.region r).base = 0 ∧
    (State.reset.region r).size = 0 ∧ (State.reset.region r).blockSize = 512 ∧ (State.reset.region r).blockCount = 0 ∧
    (State.reset.region r).tagBase = 0 ∧ (State.reset.region r).epoch = 0 ∧ (State.reset.region r).seed = 0 ∧
    (State.reset.region r).checkSet = ⟨false, false, false⟩ ∧ (State.reset.region r).readAction = .fail ∧
    (State.reset.region r).mergeMode = .verify ∧ (State.reset.region r).tagPolicy = .writeBack ∧
    (∀ k, vget (State.reset.region r).permissions k = .none) ∧ (State.reset.region r).frontier = 0 ∧
    (State.reset.region r).fenced = false ∧ (State.reset.region r).errorCount = 0 ∧
    (State.reset.region r).warnThreshold = 0 ∧ (State.reset.region r).fenceThreshold = 0 ∧
    (State.reset.region r).fenceEnable = false ∧ (State.reset.region r).warnReported = false ∧
    (State.reset.region r).healthLocked = false) ∧
  ((∀ q, vget State.reset.ru.requesterMap q = none) ∧ State.reset.ru.unmapped = .pass) ∧
  ((∀ i, State.reset.slot i = {
      state := .free, requester := 0, tid := 0, kind := .read, address := 0, length := 0, data := [], enables := [], cls := none
      region := none, firstBlock := 0, blockSpan := 0, epoch := none, committed := false, parts := [], abandoned := false
      response := none, inReset := false }) ∧ State.reset.tu.responses = []) ∧
  (State.reset.obt.entries = [] ∧ State.reset.obt.admission = [] ∧ State.reset.obt.bufferWait = [] ∧
    (∀ b, (vget State.reset.obt.buffers b).owner = none) ∧ State.reset.obt.sweepBuffer.assigned = false) ∧
  ((∀ l, (State.reset.line l).state = .invalid ∧ (State.reset.line l).key = none ∧ (State.reset.line l).pinners = [] ∧
      (State.reset.line l).waiters = [] ∧ (State.reset.line l).redirty = false ∧ (State.reset.line l).attempts = 0 ∧
      (State.reset.line l).retryTimer = none ∧ (State.reset.line l).reserved = false ∧ (State.reset.line l).through = 0 ∧
      (State.reset.line l).deferred = [] ∧ (State.reset.line l).throughFault = false) ∧
    State.reset.tc.lru = [] ∧ State.reset.tc.alloc = [] ∧ State.reset.tc.flushes = []) ∧
  (State.reset.su.jobs = [] ∧ State.reset.su.nextId = 1 ∧ State.reset.su.pacing = 100 ∧ State.reset.su.pacingTimer = none) ∧
  ((∀ t, (State.reset.downTag t).state = .free ∧ (State.reset.downTag t).request = none ∧
      (State.reset.downTag t).responseTimer = none ∧ (State.reset.downTag t).quarantineTimer = none) ∧
    State.reset.ma.tagQueue = [] ∧ State.reset.ma.workQueue = [] ∧ State.reset.ma.sweepQueue = [] ∧
    State.reset.ma.shareCounter = 0 ∧ State.reset.ma.share = 8 ∧ State.reset.ma.timeout = 128) ∧
  (State.reset.el.log = [] ∧ State.reset.el.seq = 0 ∧ State.reset.el.dropped = 0 ∧ State.reset.el.overflow = false ∧
    State.reset.el.logMask = ⟨false, false, false⟩ ∧ (∀ k, vget State.reset.el.alertMask k = false) ∧
    State.reset.el.alert = false) ∧
  (State.reset.mp.mailbox = .idle ∧ State.reset.mp.overrun = false ∧ State.reset.mp.result = .noResult ∧
    (∀ k, vget State.reset.mp.params k = 0) ∧ (∀ k, vget State.reset.mp.results k = 0) ∧ State.reset.mp.offset = 0)

/-! ## Tags and the Check Unit (chapter 2) -/

/-- R22: the check value, the CRC of nothing, and that over one length the CRC changes only by what changed. -/
def Obligations.CrcCheckValueAndAffinity : Prop :=
  crc [0x31, 0x32, 0x33, 0x34, 0x35, 0x36, 0x37, 0x38, 0x39] = 0xE3069283 ∧ crc [] = 0 ∧
  ∀ a b : List Byte, a.length = b.length →
    crc a ^^^ crc b = crc (List.zipWith (fun x y => x ^^^ y) a b) ^^^ crc (List.replicate a.length 0)

/-- R32: the delta guard, formed from the enabled bytes alone, is G xor the CRC of the block before and of the merged block; an
enabled byte whose value does not change adds nothing. Law 6 (R33): after a DELTA merge the syndrome is what it was; a sound block's
delta guard is the merged block's CRC, and a corrupt block is judged CORRUPT before and after. -/
def Obligations.DeltaGuardKeepsTheSyndrome : Prop :=
  (∀ (G : BitVec 32) (D : List Byte) (new : List (Nat × Byte)), (∀ x ∈ new, x.1 < D.length) →
      deltaGuard G D.length (new.map fun x => (x.1, D.getD x.1 0)) new = G ^^^ crc D ^^^ crc (placeBytes new D) ∧
      (∀ k v, k < D.length → D.getD k 0 = v → k ∉ new.map (·.1) →
        deltaGuard G D.length ((new ++ [(k, v)]).map fun x => (x.1, D.getD x.1 0)) (new ++ [(k, v)]) =
          deltaGuard G D.length (new.map fun x => (x.1, D.getD x.1 0)) new) ∧
      ((∀ x ∈ new, D.getD x.1 0 = x.2) →
        deltaGuard G D.length (new.map fun x => (x.1, D.getD x.1 0)) new = G)) ∧
  ∀ (t t' : Tag) (D : List Byte) (new : List (Nat × Byte)), (∀ x ∈ new, x.1 < D.length) →
    t'.guard = deltaGuard t.guard D.length (new.map fun x => (x.1, D.getD x.1 0)) new →
    syndrome t' (placeBytes new D) = syndrome t D ∧
    (syndrome t D = 0 → t'.guard = crc (placeBytes new D)) ∧
    (dataEvaluation t' (placeBytes new D) = .corrupt ↔ dataEvaluation t D = .corrupt)

/-- R189: a tag's eight bytes as the table lays them out; decoding is the inverse of encoding, for a tag and for a line; the
all-zero tag decodes with epoch 0 and the blank flag clear; a block's tag stands at tag base + 8 × block index. R4: a tag area of N
blocks is 8N bytes rounded up to a multiple of 64. -/
def Obligations.TagsDecodeAsEncoded : Prop :=
  (∀ t : Tag, (encodeTag t).length = 8 ∧ leNat (slice 0 4 (encodeTag t)) = t.guard.toNat ∧
    leNat (slice 4 2 (encodeTag t)) = t.locator.toNat ∧ (encodeTag t).getD 6 0 = t.label ∧
    ((encodeTag t).getD 7 0).getLsbD 7 = t.blank ∧ ((encodeTag t).getD 7 0).toNat % 128 = t.epoch.toNat ∧
    decodeTag (encodeTag t) = t) ∧
  (∀ ts : Vector Tag 8, (encodeTags ts).length = 64 ∧ decodeTags (encodeTags ts) = ts) ∧
  decodeTag (List.replicate 8 0) = ⟨0, 0, 0, false, 0⟩ ∧
  (∀ (g : Region) (b : Nat), g.tagAddress b = g.tagBase + 8 * b) ∧
  (∀ n, tagAreaBytes n % 64 = 0 ∧ 8 * n ≤ tagAreaBytes n ∧ tagAreaBytes n < 8 * n + 64) ∧
  ∀ g : Region, g.tagBytes = tagAreaBytes g.blockCount

/-- The verdict order: the epoch check with the frontier rule (R26), locator and label (R27), the blank check (R28), the guard
(R29). -/
def Obligations.VerdictOrder : Prop :=
  ∀ (g : Region) (captured : Epoch) (i : Nat) (t : Tag),
    (t.epoch ≠ captured → captured = g.epoch → g.frontier ≤ i → tagEvaluation g captured i t = .blank) ∧
    (t.epoch ≠ captured → ¬ (captured = g.epoch ∧ g.frontier ≤ i) → tagEvaluation g captured i t = .stale) ∧
    (t.epoch = captured →
      (g.checkSet.locator = true → t.locator.toNat ≠ (i + g.seed.toNat) % 65536 →
        tagEvaluation g captured i t = .misplaced) ∧
      (g.checkSet.locator = false ∨ t.locator.toNat = (i + g.seed.toNat) % 65536 →
        (g.checkSet.label = true → t.label ≠ g.label → tagEvaluation g captured i t = .foreign) ∧
        (g.checkSet.label = false ∨ t.label = g.label →
          (t.blank = true → tagEvaluation g captured i t = .blank) ∧
          (t.blank = false → tagEvaluation g captured i t = .sound)))) ∧
    ∀ bytes, (crc bytes ≠ t.guard → dataEvaluation t bytes = .corrupt) ∧ (crc bytes = t.guard → dataEvaluation t bytes = .sound)

/-- A part judged by its tag: a read by the region's read action (R61), a write by the region's merge mode and whether the part has
an enabled byte (R76). A part in LOOKUP told of a fill failure takes MEMORY_FAULT (R60, R75). One handed its tag is judged by the
tag evaluation with the captured epoch, and a failure is reported, a read's under the verdict's kind, a write's as MERGE_REFUSED,
and to the region's health (R62, R77). An abandoned slot takes neither, nor a part past LOOKUP. While a part is in LOOKUP nothing
follows; then a write with a REFUSED part is decided (R78, R82), and otherwise the operation asks for one buffer for each part that
needs a whole block (R52): it goes on with the lowest-numbered free ones (log entry 11), or waits in the FIFO. Going on, each READY
part of a read enters READING, its DATA_READs of the whole block (FULL) or of its own bytes (SPAN) joining the WORK class part 1
first (R63, R64); of a write, a BLANK_FILL part is CHECKED, and a VERIFY part reads its block and a DELTA part its enabled span
(R78). The end or the decision is looked at after it. The model's choices: tags and fill failures reach the parts as internal
events of the step (log entry 3), and an integrity record precedes the records of its health report (log entry 12). -/
def Obligations.TagVerdictDecidesThePart : Prop :=
  (∀ (p : Part) (t : Tag) (v : Verdict),
    (∀ a, (p.judgedRead a .sound t).phase = .ready ∧ (p.judgedRead a .sound t).outcome = p.outcome ∧
      (p.judgedRead a .blank t).phase = .done ∧ (p.judgedRead a .blank t).outcome = p.outcome) ∧
    (v = .stale ∨ v = .misplaced ∨ v = .foreign →
      ((p.judgedRead .fail v t).phase = .done ∧ (p.judgedRead .fail v t).outcome = .checkFail ∧
        (p.judgedRead .fail v t).data = p.data) ∧
      ((p.judgedRead .poison v t).phase = .ready ∧ (p.judgedRead .poison v t).poison = true ∧
        (p.judgedRead .poison v t).outcome = p.outcome) ∧
      ((p.judgedRead .report v t).phase = .ready ∧ (p.judgedRead .report v t).poison = p.poison ∧
        (p.judgedRead .report v t).outcome = p.outcome) ∧
      ∀ m, (p.judgedWrite m v t).phase = .refused ∧ (p.judgedWrite m v t).outcome = .checkFail) ∧
    (v = .blank ∨ v = .sound → p.span = none →
      ∀ m, (p.judgedWrite m v t).path = some .empty ∧ (p.judgedWrite m v t).phase = .checked) ∧
    (∀ sp, p.span = some sp →
      (∀ m, (p.judgedWrite m .blank t).path = some .blankFill ∧ (p.judgedWrite m .blank t).phase = .ready) ∧
      ((p.judgedWrite .verify .sound t).path = some .verify ∧ (p.judgedWrite .verify .sound t).phase = .ready) ∧
      ((p.judgedWrite .delta .sound t).path = some .delta ∧ (p.judgedWrite .delta .sound t).phase = .ready))) ∧
  (∀ (s : State) (i : SlotId) (k : Nat) (p : Part) (r : RegionId) (e : Epoch) (t : Tag),
    (s.slot i).parts[k]? = some p → (s.slot i).region = some r → (s.slot i).epoch = some e →
    ((s.slot i).abandoned = true ∨ p.phase ≠ .lookup →
      runTask (.handTag (.slot i) k t) s = s ∧ runTask (.fillFailed (.slot i) k) s = s) ∧
    ((s.slot i).abandoned = false → p.phase = .lookup → ∀ (v : Verdict) (y : State), v = tagEvaluation (s.region r) e p.block t →
      ((s.slot i).kind = .read →
        runTask (.fillFailed (.slot i) k) s = readLookedUp i (s.withPart i k { p with phase := .done, outcome := .memoryFault }) ∧
        (y = s.withPart i k (p.judgedRead (s.region r).readAction v t) →
          (v = .sound ∨ v = .blank → runTask (.handTag (.slot i) k t) s = readLookedUp i y) ∧
          ∀ kd, (v = .stale ∧ kd = .stale) ∨ (v = .misplaced ∧ kd = .misplaced) ∨ (v = .foreign ∧ kd = .foreign) →
            runTask (.handTag (.slot i) k t) s = readLookedUp i (healthReport .transaction r p.block
              (some ((s.slot i).requester, (s.slot i).tid)) { y with el := s.el.offer { Record.plain kd .transaction with
                region := some r, block := some p.block, who := some ((s.slot i).requester, (s.slot i).tid)
                tags := some ⟨t, e, BitVec.ofNat 16 (p.block + (s.region r).seed.toNat), (s.region r).label⟩ } }))) ∧
      ((s.slot i).kind = .write →
        runTask (.fillFailed (.slot i) k) s =
          writeLookedUp i (s.withPart i k { p with phase := .refused, outcome := .memoryFault }) ∧
        (y = s.withPart i k (p.judgedWrite (s.region r).mergeMode v t) →
          (v = .sound ∨ v = .blank → runTask (.handTag (.slot i) k t) s = writeLookedUp i y) ∧
          ∀ kd, (v = .stale ∧ kd = .stale) ∨ (v = .misplaced ∧ kd = .misplaced) ∨ (v = .foreign ∧ kd = .foreign) →
            runTask (.handTag (.slot i) k t) s = writeLookedUp i (healthReport .transaction r p.block
              (some ((s.slot i).requester, (s.slot i).tid)) { y with el := s.el.offer { Record.plain .mergeRefused .transaction with
                region := some r, block := some p.block, who := some ((s.slot i).requester, (s.slot i).tid)
                underlying := some kd
                tags := some ⟨t, e, BitVec.ofNat 16 (p.block + (s.region r).seed.toNat), (s.region r).label⟩ } }))))) ∧
  (∀ (s : State) (i : SlotId) (r : RegionId) (go : SlotId → State → State) (looked : SlotId → State → State)
      (needs : Part → Bool) (ks : List Nat), (s.slot i).region = some r →
    ((s.slot i).kind = .read ∧ looked = readLookedUp ∧ go = issueReads ∧ (∀ p : Part, needs p = true ↔
        p.phase = .ready ∧ (s.region r).checkSet.guard = true ∧ p.verdict = some .sound)) ∨
      ((s.slot i).kind = .write ∧ looked = writeLookedUp ∧ go = proceedWrite ∧ (∀ p : Part, needs p = true ↔
        p.phase = .ready ∧ (p.path = some .blankFill ∨ p.path = some .verify))) →
    ks = ((List.range (s.slot i).parts.length).filter fun k => (s.slot i).parts[k]?.any needs) →
    ((∃ p ∈ (s.slot i).parts, p.phase = .lookup) → looked i s = s) ∧
    ((∀ p ∈ (s.slot i).parts, p.phase ≠ .lookup) →
      ((s.slot i).kind = .write → (∃ p ∈ (s.slot i).parts, p.phase = .refused) → looked i s = decideWrite i s) ∧
      (((s.slot i).kind = .write → ∀ p ∈ (s.slot i).parts, p.phase ≠ .refused) →
        (ks = [] → looked i s = go i s) ∧
        (ks ≠ [] → s.obt.bufferWait ≠ [] ∨ s.obt.freeBuffers.length < ks.length →
          looked i s = { s with obt := { s.obt with bufferWait := s.obt.bufferWait ++ [(i, ks.length)] } }) ∧
        (ks ≠ [] → s.obt.bufferWait = [] → ks.length ≤ s.obt.freeBuffers.length →
          looked i s = go i (ks.foldl (assignBuffer i) s))))) ∧
  ∀ (s : State) (i : SlotId) (r : RegionId) (whole : Part → Bool) (rd : Nat → Nat → Nat → Nat → Nat → Request),
    (s.slot i).region = some r → (∀ p, whole p = true ↔ (s.region r).checkSet.guard = true ∧ p.verdict = some .sound) →
    (∀ k block off len land, rd k block off len land =
      { kind := .dataRead, cls := .work, address := (s.region r).base + block * (s.region r).blockSize + off, length := len
        data := [], enables := [], issuer := .part i k land
        key := ⟨some r, some block, some ((s.slot i).requester, (s.slot i).tid), none⟩, inReset := false }) →
    (∀ (k : Nat) (b : Fin 8), (vget s.obt.buffers b).owner = none → (∀ c, c < b → (vget s.obt.buffers c).owner ≠ none) →
      assignBuffer i s k = { s with
        obt := { s.obt with buffers := vset s.obt.buffers b { vget s.obt.buffers b with owner := some (i, k) } } }) ∧
    (∃ reqs : List (List Request), reqs.length = (s.slot i).parts.length ∧
      issueReads i s = endReadIfDone i { s with
        tu := { s.tu with slots := vset s.tu.slots i { s.slot i with parts := (s.slot i).parts.map fun p =>
          (if p.phase = .ready then
            if whole p then { p with phase := .reading, mode := some .full, readsOut := (s.region r).blockSize / 256 }
            else { p with phase := .reading, mode := some .span, readsOut := 1 }
          else p) } }
        ma := { s.ma with workQueue := s.ma.workQueue ++ reqs.flatten } } ∧
      ∀ (k : Nat) (p : Part), (s.slot i).parts[k]? = some p →
        (p.phase ≠ .ready → reqs[k]? = some []) ∧
        (p.phase = .ready → whole p = true → reqs[k]? =
          some ((List.range ((s.region r).blockSize / 256)).map fun j => rd k p.block (256 * j) 256 (256 * j))) ∧
        (p.phase = .ready → whole p = false → reqs[k]? = some [rd k p.block p.offset p.count 0])) ∧
    ∃ reqs : List (List Request), reqs.length = (s.slot i).parts.length ∧
      proceedWrite i s = decideWrite i { s with
        tu := { s.tu with slots := vset s.tu.slots i { s.slot i with parts := (s.slot i).parts.map fun p =>
          (if p.phase = .ready then
            match p.path with
            | some .blankFill => { p with phase := .checked }
            | some .verify => { p with phase := .reading, readsOut := (s.region r).blockSize / 256 }
            | some .delta => { p with phase := .reading, readsOut := 1 }
            | _ => p
          else p) } }
        ma := { s.ma with workQueue := s.ma.workQueue ++ reqs.flatten } } ∧
      ∀ (k : Nat) (p : Part), (s.slot i).parts[k]? = some p →
        (p.phase ≠ .ready ∨ p.path = some .blankFill → reqs[k]? = some []) ∧
        (p.phase = .ready → p.path = some .verify → reqs[k]? =
          some ((List.range ((s.region r).blockSize / 256)).map fun j => rd k p.block (256 * j) 256 (256 * j))) ∧
        ∀ lo hi, p.phase = .ready → p.path = some .delta → p.span = some (lo, hi) →
          reqs[k]? = some [rd k p.block lo (hi - lo + 1) 0]

/-! ## The Open Block Table (chapter 3) -/

/-- The grant rule (R45): only the head is granted, an exclusive one into an empty holder set, a shared one with every SHARED pair
directly behind it when no exclusive holder stands. Its application to a block's entry (R46): the entry is as the rule leaves it,
and each operation granted is looked at in list order; one that holds every block it spans begins its work, looking up its parts'
tags, part 1 first (R60, R75; that order is the model's choice, log entry 24), and one still waiting for a block does not. A
granted job is WORKING (R115) and begins its block's work. A release (R48): the operation leaves every holder set and waiter list,
entries left empty are freed, the grant rule is applied to those that stay, and the drain of a freed entry's region looks at its
count (R50); its buffers return to the pool and it leaves the buffer wait FIFO (R52 to R54), then its pins are dropped. What the
pins set off comes before the grants at the blocks left, the model's choice (log entry 24); grants and drain checks are internal
events of the step (log entry 3). -/
def Obligations.GrantRule : Prop :=
  (∀ e : Entry,
    (e.waiters = [] → e.grant = (e, [])) ∧
    (∀ op rest, e.waiters = (op, .exclusive) :: rest →
      (e.holders = [] → e.grant = ({ e with holders := [(op, .exclusive)], waiters := rest }, [op])) ∧
      (e.holders ≠ [] → e.grant = (e, []))) ∧
    ∀ batch rest, e.waiters = batch ++ rest → batch ≠ [] → (∀ w ∈ batch, w.2 = .shared) →
      (∀ w ws, rest = w :: ws → w.2 = .exclusive) →
      ((∀ h ∈ e.holders, h.2 = .shared) →
        e.grant = ({ e with holders := e.holders ++ batch, waiters := rest }, batch.map (·.1))) ∧
      ((∃ h ∈ e.holders, h.2 = .exclusive) → e.grant = (e, []))) ∧
  (∀ (s : State) (r : RegionId) (b : Nat),
    ((∀ e ∈ s.obt.entries, ¬ (e.region = r ∧ e.block = b)) → runTask (.grant r b) s = s) ∧
    ∀ (front back : List Entry) (e e' : Entry) (ops : List OpId), s.obt.entries = front ++ e :: back →
      e.region = r → e.block = b → (∀ x ∈ front ++ back, ¬ (x.region = r ∧ x.block = b)) → e.grant = (e', ops) →
      runTask (.grant r b) s = ops.foldl granted { s with obt := { s.obt with entries := front ++ e' :: back } }) ∧
  (∀ (s : State) (i : SlotId) (r : RegionId), (s.slot i).region = some r →
    ((∀ p ∈ (s.slot i).parts, (∃ e ∈ s.obt.entries, e.region = r ∧ e.block = p.block) ∧
        ∀ e ∈ s.obt.entries, e.region = r → e.block = p.block → ∃ m, (OpId.slot i, m) ∈ e.holders) →
      granted s (.slot i) = { s with work := s.work ++ [.beginWork (.slot i)] }) ∧
    ((∃ p ∈ (s.slot i).parts, ∀ e ∈ s.obt.entries, e.region = r → e.block = p.block → ∀ m, (OpId.slot i, m) ∉ e.holders) →
      granted s (.slot i) = s) ∧
    ((s.slot i).state ≠ .active → runTask (.beginWork (.slot i)) s = s) ∧
    ((s.slot i).state = .active →
      (∀ p, (s.slot i).parts = [p] → runTask (.beginWork (.slot i)) s = lookupTag (.slot i) 0 r p.block s) ∧
      ∀ p p', (s.slot i).parts = [p, p'] →
        runTask (.beginWork (.slot i)) s = lookupTag (.slot i) 1 r p'.block (lookupTag (.slot i) 0 r p.block s))) ∧
  ∀ (s : State) (op : OpId) (out : Entry → Entry) (stays : Entry → Bool),
    (∀ e, out e = { e with holders := e.holders.filter (·.1 ≠ op), waiters := e.waiters.filter (·.1 ≠ op) }) →
    (∀ e, stays e = true ↔ (out e).holders ≠ [] ∨ (out e).waiters ≠ []) →
    (∀ j rest, s.su.jobs = j :: rest → granted s .sweep = { s with
      su := { s.su with jobs := { j with step := .working } :: rest }, work := s.work ++ [.beginWork .sweep] }) ∧
    releaseOp op s = dropPins op (returnBuffers op (leaveBlocks op s)) ∧
    leaveBlocks op s = { s with
      obt := { s.obt with entries := (s.obt.entries.filter stays).map out }
      work := s.work ++ (s.obt.entries.filter fun e => (e.holders ++ e.waiters).any (·.1 = op)).map fun e =>
        if stays e then .grant e.region e.block else .drainCheck e.region } ∧
    (∀ (i : SlotId) (B : Vector Buffer 8),
      (∀ b, (∃ k, (vget s.obt.buffers b).owner = some (i, k)) → vget B b = { vget s.obt.buffers b with owner := none }) →
      (∀ b, (∀ k, (vget s.obt.buffers b).owner ≠ some (i, k)) → vget B b = vget s.obt.buffers b) →
      returnBuffers (.slot i) s = { s with obt := { s.obt with
        bufferWait := s.obt.bufferWait.filter (·.1 ≠ i), buffers := B } }) ∧
    returnBuffers .sweep s = { s with obt := { s.obt with sweepBuffer := { s.obt.sweepBuffer with assigned := false } } }

/-- ADMISSION_EXAMINATION (R40 to R42): a head whose region no longer admits, or a write to a fenced region, is answered
UNAVAILABLE; a head with room is admitted, with the epoch captured and its blocks joined, the lower first; another waits. There is
room when U + n is at most 31: U counts the entries in which an operation other than the sweep's stands, and n the head's parts
whose block has no entry, or an entry with no such operation (R41). -/
def Obligations.AdmissionHeadIsRefusedAdmittedOrWaits : Prop :=
  (∀ s : State, s.obt.admission = [] → exec .admissionExamination s = .next s) ∧
  ∀ (s : State) (i : SlotId) (rest : List SlotId) (r : RegionId), s.obt.admission = i :: rest → (s.slot i).region = some r →
    (((s.region r).state ≠ .online ∧ (s.region r).state ≠ .formatting) ∨
        ((s.region r).fenced = true ∧ (s.slot i).kind = .write) →
      exec .admissionExamination s = .next { s with
        obt := { s.obt with admission := rest }
        tu := {
          slots := vset s.tu.slots i { s.slot i with
            state := .responding
            response := some ⟨(s.slot i).requester, (s.slot i).tid, (s.slot i).kind, .unavailable, false,
              match (s.slot i).kind with
              | .read => List.replicate (min (s.slot i).length 256) 0
              | .write => []⟩ }
          responses := s.tu.responses ++ [i] }
        el := s.el.offer { Record.plain .unavailable .transaction with
          who := some ((s.slot i).requester, (s.slot i).tid), region := some r, block := some (s.slot i).firstBlock } }) ∧
    ((s.region r).state = .online ∨ (s.region r).state = .formatting →
      ¬ ((s.region r).fenced = true ∧ (s.slot i).kind = .write) → ∀ U n : Nat,
      U = (s.obt.entries.countP fun e => (e.holders ++ e.waiters).any fun w => w.1 != .sweep) →
      n = ((s.slot i).parts.countP fun p =>
        match s.obt.entries.find? fun e => e.region == r && e.block == p.block with
        | none => true
        | some e => (e.holders ++ e.waiters).all fun w => w.1 == .sweep) →
      (U + n ≤ 31 →
        exec .admissionExamination s = .next (run
          ((s.slot i).parts.foldl
            (fun u p => joinBlock (.slot i) (match (s.slot i).kind with | .read => .shared | .write => .exclusive) r p.block u)
            { s with
              obt := { s.obt with admission := rest }
              tu := { s.tu with
                slots := vset s.tu.slots i { s.slot i with state := .active, epoch := some (s.region r).epoch } } }))) ∧
      (31 < U + n → exec .admissionExamination s = .next s))

/-- BUFFER_WAIT_EXAMINATION (R53): nothing to do with an empty FIFO or a head that asks for more than is free; a lone waiting
read of one whole-block part gets a free buffer, the lowest-numbered (log entry 11), and issues its B ÷ 256 reads (R63, R64). -/
def Obligations.BufferWaitHeadGetsItsBuffers : Prop :=
  (∀ s : State, s.work = [] →
    (s.obt.bufferWait = [] ∨ ∃ i c rest, s.obt.bufferWait = (i, c) :: rest ∧ s.obt.freeBuffers.length < c) →
    exec .bufferWaitExamination s = .next (endReset s)) ∧
  ∀ (s : State) (i : SlotId) (r : RegionId) (p : Part) (b : Fin 8), s.work = [] → s.obt.bufferWait = [(i, 1)] →
    (vget s.obt.buffers b).owner = none → (∀ c, c < b → (vget s.obt.buffers c).owner ≠ none) →
    (s.slot i).kind = .read → (s.slot i).region = some r → (s.slot i).parts = [p] → p.phase = .ready →
    p.verdict = some .sound → (s.region r).checkSet.guard = true →
    exec .bufferWaitExamination s = .next (endReset { s with
      obt := { s.obt with
        bufferWait := [], buffers := vset s.obt.buffers b { vget s.obt.buffers b with owner := some (i, 0) } }
      tu := { s.tu with slots := vset s.tu.slots i { s.slot i with
        parts := [{ p with phase := .reading, mode := some .full, readsOut := (s.region r).blockSize / 256 }] } }
      ma := { s.ma with workQueue := s.ma.workQueue ++
        (List.range ((s.region r).blockSize / 256)).map fun k =>
          { kind := .dataRead, cls := .work
            address := (s.region r).base + p.block * (s.region r).blockSize + 256 * k, length := 256, data := []
            enables := [], issuer := .part i 0 (256 * k)
            key := ⟨some r, some p.block, some ((s.slot i).requester, (s.slot i).tid), none⟩, inReset := false } } })

/-! ## Requests (chapter 9) -/

/-- A MALFORMED request (R149) is answered at once; so is one the lookup refuses (R9), with the record fields of R150.
The slot taken is the lowest-numbered FREE one (log entry 11). -/
def Obligations.RequestRefusedAtArrival : Prop :=
  ∀ (c : Instr) (sl : Slot) (s : State) (i : SlotId), requestSlot c = some sl → s.accepts i →
    (s.isMalformed sl → exec c s = .next (s.refusedAtArrival i sl .malformed none none none)) ∧
    (¬ s.isMalformed sl →
      (∀ q, s.touchesTags sl q →
        (∀ q', s.touchesTags sl q' → q' ≠ q →
          max sl.address.toNat (s.region q).tagBase < max sl.address.toNat (s.region q').tagBase) →
        exec c s = .next (s.refusedAtArrival i sl .denied none (some q) none)) ∧
      ((∀ q, ¬ s.touchesTags sl q) → (∀ q, ¬ s.inRange sl.address.toNat q) → s.ru.unmapped = .deny →
        exec c s = .next (s.refusedAtArrival i sl .denied none none none))) ∧
    ∀ r, s.reaches sl r →
      (s.partitionOf sl = none ∨ (∃ p, s.partitionOf sl = some p ∧ (vget (s.region r).permissions p).deniesKind sl.kind) →
        exec c s = .next (s.refusedAtArrival i sl .denied (some r) (some r)
          (some ((sl.address.toNat - (s.region r).base) / (s.region r).blockSize)))) ∧
      (∀ p, s.partitionOf sl = some p → ¬ (vget (s.region r).permissions p).deniesKind sl.kind →
        (((s.region r).state ≠ .online ∧ (s.region r).state ≠ .formatting) ∨
          ((s.region r).fenced = true ∧ sl.kind = .write)) →
        exec c s = .next (s.refusedAtArrival i sl .unavailable (some r) (some r)
          (some ((sl.address.toNat - (s.region r).base) / (s.region r).blockSize))))

/-- A protected request joins the admission queue with its block parts (R39); a pass-through request appends one unchanged request
to the WORK class (R151); with a reset pin asserted or no FREE slot nothing is accepted (R145, log entry 20). The slot taken is the
lowest-numbered FREE one (log entry 11), and missing enables read as off (log entry 21). The parts (R5): the first block, the span,
and each part's block, offset, byte count and place in the request, with the Initial columns of Tables 4-1 and 5-1 and the enabled
span (R74). That the old span bytes start empty, and that a record holds the fields of both tables, is the model's choice (log
entry 28), as are the first block and span of 0 in a slot that is not protected (log entry 6). -/
def Obligations.RequestQueuedOrPassedThrough : Prop :=
  (∀ (c : Instr) (sl : Slot) (s : State), requestSlot c = some sl →
    s.pins.porst = true ∨ s.pins.frst = true ∨ (∀ j, (s.slot j).state ≠ .free) → exec c s = .next s) ∧
  (∀ (c : Instr) (sl : Slot) (s : State) (i : SlotId), requestSlot c = some sl → s.accepts i →
    (∀ r p, s.reaches sl r → s.partitionOf sl = some p → ¬ (vget (s.region r).permissions p).deniesKind sl.kind →
      (s.region r).state = .online ∨ (s.region r).state = .formatting →
      ¬ ((s.region r).fenced = true ∧ sl.kind = .write) →
      exec c s = .next { s with
        tu := { s.tu with slots := vset s.tu.slots i { sl with
          state := .admitting, cls := some .protectedWork, region := some r
          firstBlock := (s.region r).blockOf sl.address.toNat
          blockSpan := (s.region r).spanOf sl.address.toNat sl.length
          parts := partsOf (s.region r) sl.address.toNat sl.length sl.enables } }
        obt := { s.obt with admission := s.obt.admission ++ [i] } }) ∧
    (¬ s.isMalformed sl → (∀ q, ¬ s.touchesTags sl q) → (∀ q, ¬ s.inRange sl.address.toNat q) → s.ru.unmapped = .pass →
      exec c s = .next { s with
        tu := { s.tu with slots := vset s.tu.slots i { sl with state := .passing, cls := some .passThrough } }
        ma := { s.ma with workQueue := s.ma.workQueue ++ [
          { kind := (match sl.kind with | .read => .dataRead | .write => .dataWrite), cls := .work
            address := sl.address.toNat, length := sl.length, data := sl.data, enables := sl.enables
            issuer := .passThrough i, key := ⟨none, none, some (sl.requester, sl.tid), none⟩, inReset := false }] } })) ∧
  ∀ (g : Region) (a n : Nat) (en : List Bool), g.base ≤ a → 1 ≤ n → n ≤ 256 → 512 ≤ g.blockSize →
    g.blockOf a = (a - g.base) / g.blockSize ∧
    g.spanOf a n = (a + n - 1 - g.base) / g.blockSize - (a - g.base) / g.blockSize + 1 ∧
    (g.spanOf a n = 1 ∨ g.spanOf a n = 2) ∧
    (g.spanOf a n = 1 → (partsOf g a n en).map (fun p => (p.block, p.offset, p.count, p.start)) =
      [((a - g.base) / g.blockSize, (a - g.base) % g.blockSize, n, 0)]) ∧
    (g.spanOf a n = 2 →
      (partsOf g a n en).map (fun p => (p.block, p.offset, p.count, p.start)) =
        [((a - g.base) / g.blockSize, (a - g.base) % g.blockSize, g.blockSize - (a - g.base) % g.blockSize, 0),
         ((a - g.base) / g.blockSize + 1, 0, n - (g.blockSize - (a - g.base) % g.blockSize),
          g.blockSize - (a - g.base) % g.blockSize)] ∧
      g.blockSize - (a - g.base) % g.blockSize < n) ∧
    ∀ p ∈ partsOf g a n en,
      p.phase = .lookup ∧ p.verdict = none ∧ p.tag = none ∧ p.mode = none ∧ p.path = none ∧ p.readsOut = 0 ∧
      p.writesOut = 0 ∧ p.outcome = .okay ∧ p.poison = false ∧ p.faultPosted = false ∧
      p.data = List.replicate p.count 0 ∧ p.oldSpan = [] ∧ p.newTag = none ∧
      (p.span = none ↔ ∀ k, k < p.count → en.getD (p.start + k) false = false) ∧
      ∀ lo hi, p.span = some (lo, hi) →
        (∃ k, k < p.count ∧ lo = p.offset + k ∧ en.getD (p.start + k) false = true) ∧
        (∃ k, k < p.count ∧ hi = p.offset + k ∧ en.getD (p.start + k) false = true) ∧
        ∀ k, k < p.count → en.getD (p.start + k) false = true → lo ≤ p.offset + k ∧ p.offset + k ≤ hi

/-- RESPONSE_SENT (R153): the head of the response queue leaves, its slot becomes FREE with every other field discarded (R147);
with an empty queue there is nothing to send (log entry 7). -/
def Obligations.ResponseHeadIsSent : Prop :=
  (∀ s : State, s.tu.responses = [] → exec .responseSent s = .next s) ∧
  ∀ (s : State) (i : SlotId) (rest : List SlotId) (a : Response), s.tu.responses = i :: rest →
    (s.slot i).response = some a →
    exec .responseSent s = .next { s with
      tu := { slots := vset s.tu.slots i Slot.powerOn, responses := rest }
      out := { s.out with upstream := s.out.upstream ++ [a] } }

/-! ## The Tag Cache (chapter 6) -/

/-- ALLOCATION_EXAMINATION (R98): the head takes an INVALID line (the lowest-numbered, log entry 11), or the reserved line when
CLEAN and unpinned, or the least recently used CLEAN unpinned line, is filled, and the next head is examined. With no such line and
none reserved, the oldest eligible unpinned DIRTY line is reserved and written back (R103); the head waits. The tags a FILLING line
holds are the model's choice, zeros (log entry 6). A lookup (R96, R97): a line with the key moves to rank 1; CLEAN, DIRTY or
CLEANING it is pinned, once for an operation, and hands its tag; FILLING it is pinned and the part waits; STRANDED the part waits
without a pin; without a line the part joins the key's list in the allocation queue, or the key joins its tail. A pin ends a
reservation (R98). An operation's pins dropped (R96): it leaves every line's pins and wait list and every allocation key, a key
left without parts goes, the STRANDED lines it alone pinned are discarded (R106), in ascending number and before the high-water
count, the model's order (log entry 24); a tag handed is an internal event of the step (log entry 3). -/
def Obligations.AllocationHeadTakesALine : Prop :=
  (∀ s : State, s.tc.alloc = [] → exec .allocationExamination s = .next s) ∧
  (∀ (s : State) (k : AllocKey) (rest : List AllocKey) (l : LineId), s.tc.alloc = k :: rest →
    (((s.line l).state = .invalid ∧ ∀ m, m < l → (s.line m).state ≠ .invalid) ∨
      ((∀ m, (s.line m).state ≠ .invalid) ∧ (s.line l).reserved = true ∧ (s.line l).state = .clean ∧
        (s.line l).pinners = [] ∧ ∀ m, (s.line m).reserved = true → m = l) ∨
      ((∀ m, (s.line m).state ≠ .invalid) ∧
        (∀ m, ¬ ((s.line m).reserved = true ∧ (s.line m).state = .clean ∧ (s.line m).pinners = [])) ∧
        (s.line l).state = .clean ∧ (s.line l).pinners = [] ∧
        ∃ newer older, s.tc.lru = newer ++ l :: older ∧
          ∀ m ∈ older, ¬ ((s.line m).state = .clean ∧ (s.line m).pinners = []))) →
    ∃ t : State,
      t = { s with
        tc := { s.tc with
          alloc := rest
          lines := vset s.tc.lines l { Line.powerOn with
            key := some (k.region, k.line), state := .filling, pinners := distinctOps k.waiters, waiters := k.waiters }
          lru := l :: s.tc.lru.filter (· != l) }
        ma := { s.ma with tagQueue := s.ma.tagQueue ++ [
          { kind := .lineFill, cls := .tag, address := (s.region k.region).tagBase + 64 * k.line, length := 64, data := []
            enables := [], issuer := .line l, key := ⟨some k.region, some (8 * k.line), none, some (k.region, k.line)⟩
            inReset := false }] } } ∧
      exec .allocationExamination s = exec .allocationExamination t ∧ (rest = [] → exec .allocationExamination s = .next t)) ∧
  (∀ s : State, s.tc.alloc ≠ [] →
    (∀ m, (s.line m).state ≠ .invalid ∧ ((s.line m).state = .clean → (s.line m).pinners ≠ [])) →
    ((∃ m, (s.line m).reserved = true) ∨
        (∀ m, (s.line m).state = .dirty → (s.line m).pinners = [] → (s.line m).retryTimer = none → (s.line m).through ≠ 0) →
      exec .allocationExamination s = .next s) ∧
    ∀ (l : LineId) (r : RegionId) (line : Nat) (newer older : List LineId), (∀ m, (s.line m).reserved = false) →
      s.tc.lru = newer ++ l :: older → (s.line l).key = some (r, line) → (s.line l).state = .dirty → (s.line l).pinners = [] →
      (s.line l).retryTimer = none → (s.line l).through = 0 →
      (∀ m ∈ older, (s.line m).state = .dirty → (s.line m).pinners = [] → (s.line m).retryTimer = none →
        (s.line m).through ≠ 0) →
      exec .allocationExamination s = .next { s with
        tc := { s.tc with lines := vset s.tc.lines l { s.line l with
          state := .cleaning, redirty := false, throughFault := false, reserved := true } }
        ma := { s.ma with tagQueue := s.ma.tagQueue ++ [
          { kind := .lineWriteback, cls := .tag, address := (s.region r).tagBase + 64 * line
            length := (encodeTags (s.line l).tags).length, data := encodeTags (s.line l).tags
            enables := List.replicate 64 true, issuer := .line l
            key := ⟨some r, some (8 * line), none, some (r, line)⟩, inReset := false }] } }) ∧
  (∀ (s : State) (op : OpId) (k : Nat) (r : RegionId) (block : Nat),
    ((∀ l, (s.line l).key ≠ some (r, block / 8)) →
      ((∀ a ∈ s.tc.alloc, ¬ (a.region = r ∧ a.line = block / 8)) →
        lookupTag op k r block s = { s with tc := { s.tc with alloc := s.tc.alloc ++ [⟨r, block / 8, [(op, k)]⟩] } }) ∧
      ∀ front back ws, s.tc.alloc = front ++ ⟨r, block / 8, ws⟩ :: back →
        (∀ a ∈ front ++ back, ¬ (a.region = r ∧ a.line = block / 8)) →
        lookupTag op k r block s = { s with tc := { s.tc with
          alloc := front ++ ⟨r, block / 8, ws ++ [(op, k)]⟩ :: back } }) ∧
    ∀ (l : LineId) (pos : Fin 8) (x : Line) (ps : List OpId), x = s.line l → x.key = some (r, block / 8) →
      (∀ m, m < l → (s.line m).key ≠ some (r, block / 8)) → pos.val = block % 8 →
      (op ∈ x.pinners → ps = x.pinners) → (op ∉ x.pinners → ps = x.pinners ++ [op]) →
      (x.state = .clean ∨ x.state = .dirty ∨ x.state = .cleaning →
        lookupTag op k r block s = { s with
          tc := { s.tc with
            lines := vset s.tc.lines l { x with pinners := ps, reserved := false }, lru := l :: s.tc.lru.filter (· != l) }
          work := s.work ++ [.handTag op k (vget x.tags pos)] }) ∧
      (x.state = .filling →
        lookupTag op k r block s = { s with tc := { s.tc with
          lines := vset s.tc.lines l { x with pinners := ps, reserved := false, waiters := x.waiters ++ [(op, k)] }
          lru := l :: s.tc.lru.filter (· != l) } }) ∧
      (x.state = .stranded →
        lookupTag op k r block s = { s with tc := { s.tc with
          lines := vset s.tc.lines l { x with waiters := x.waiters ++ [(op, k)] }, lru := l :: s.tc.lru.filter (· != l) } })) ∧
  ∀ (s : State) (op : OpId) (ls : List LineId),
    ls = (allLines.filter fun l =>
      (s.line l).state == .stranded && decide (op ∈ (s.line l).pinners ∧ ∀ o ∈ (s.line l).pinners, o = op)) →
    dropPins op s = highWater (ls.foldl (fun y l => discardLine l y) { s with tc := { s.tc with
      lines := Vector.ofFn fun l => { s.line l with
        pinners := (s.line l).pinners.filter (· ≠ op), waiters := (s.line l).waiters.filter (·.1 ≠ op) }
      alloc := (s.tc.alloc.map fun a => { a with waiters := a.waiters.filter (·.1 ≠ op) }).filter (·.waiters ≠ []) } })

/-- RETRY_TIMER_EXPIRY (R105): without a running timer nothing (log entry 8); otherwise the timer stops, a flush request that
lists the line issues its write-back (R108), and the high-water rule is taken after it (that order is the model's, log entry 24).
That rule (R107): with at most 24 DIRTY lines nothing; otherwise the LINE_WRITEBACKs (R103) of eligible unpinned DIRTY lines are
appended, oldest first, one for each line above 24 or as many as there are, and nothing else changes. -/
def Obligations.RetryExpiryAndHighWaterRule : Prop :=
  (∀ (s : State) (l : LineId),
      ((s.line l).retryTimer = none → exec (.retryTimerExpiry l) s = .next s) ∧
      ∀ n r line, (s.line l).retryTimer = some n → (s.line l).key = some (r, line) →
        ((∀ f ∈ s.tc.flushes, (r, line) ∉ f.keys) ∨ (s.line l).state ≠ .dirty ∨ (s.line l).through ≠ 0 →
          exec (.retryTimerExpiry l) s = .next (highWater { s with
            tc := { s.tc with lines := vset s.tc.lines l { s.line l with retryTimer := none } } })) ∧
        ((∃ f ∈ s.tc.flushes, (r, line) ∈ f.keys) → (s.line l).state = .dirty → (s.line l).through = 0 →
          exec (.retryTimerExpiry l) s = .next (highWater { s with
            tc := { s.tc with lines := vset s.tc.lines l { s.line l with
              retryTimer := none, state := .cleaning, redirty := false, throughFault := false } }
            ma := { s.ma with tagQueue := s.ma.tagQueue ++ [
              { kind := .lineWriteback, cls := .tag, address := (s.region r).tagBase + 64 * line
                length := (encodeTags (s.line l).tags).length, data := encodeTags (s.line l).tags
                enables := List.replicate 64 true, issuer := .line l
                key := ⟨some r, some (8 * line), none, some (r, line)⟩, inReset := false }] } }))) ∧
  (∀ s : State, s.tc.dirtyCount ≤ 24 → highWater s = s) ∧
  ∀ (s : State) (ls : List LineId), s.tc.lru.Nodup →
    ls = (s.tc.lru.reverse.filter fun l =>
      (s.line l).state == .dirty && (s.line l).retryTimer.isNone && (s.line l).through == 0 && (s.line l).pinners.isEmpty).take
        (s.tc.dirtyCount - 24) →
    (∀ l ∈ ls, (s.line l).key.isSome = true) →
    highWater s = { s with
      tc := { s.tc with lines := Vector.ofFn fun l =>
        if l ∈ ls then { s.line l with state := .cleaning, redirty := false, throughFault := false } else s.line l }
      ma := { s.ma with tagQueue := s.ma.tagQueue ++ ls.filterMap fun l => (s.line l).key.map fun k =>
        { kind := .lineWriteback, cls := .tag, address := (s.region k.1).tagBase + 64 * k.2
          length := (encodeTags (s.line l).tags).length, data := encodeTags (s.line l).tags
          enables := List.replicate 64 true, issuer := .line l
          key := ⟨some k.1, some (8 * k.2), none, some (k.1, k.2)⟩, inReset := false } } }

/-- FLUSH (R109, R108): a wrong scope is refused; a scope with nothing to write ends DONE_OK at acceptance; otherwise the request
lists the DIRTY, CLEANING and STRANDED lines of its scope, and each listed line that is DIRTY and eligible is written back, in line
order (log entry 11). The write-back of such a line (R103): the line is CLEANING, and a LINE_WRITEBACK of its 64 bytes joins the
TAG class; a line that is on no list, not DIRTY, waiting for a retry or with tag writes outstanding is left as it is. -/
def Obligations.FlushWritesBackItsScope : Prop :=
  (∀ (s : State) (l : LineId) (r : RegionId) (line : Nat), (s.line l).key = some (r, line) →
    ((∃ f ∈ s.tc.flushes, (r, line) ∈ f.keys) ∧ (s.line l).state = .dirty ∧ (s.line l).retryTimer = none ∧
        (s.line l).through = 0 →
      demandWriteback l s = { s with
        tc := { s.tc with lines := vset s.tc.lines l { s.line l with state := .cleaning, redirty := false, throughFault := false } }
        ma := { s.ma with tagQueue := s.ma.tagQueue ++ [
          { kind := .lineWriteback, cls := .tag, address := (s.region r).tagBase + 64 * line
            length := (encodeTags (s.line l).tags).length, data := encodeTags (s.line l).tags
            enables := List.replicate 64 true, issuer := .line l
            key := ⟨some r, some (8 * line), none, some (r, line)⟩, inReset := false }] } }) ∧
    ((∀ f ∈ s.tc.flushes, (r, line) ∉ f.keys) ∨ (s.line l).state ≠ .dirty ∨ (s.line l).retryTimer ≠ none ∨
        (s.line l).through ≠ 0 →
      demandWriteback l s = s)) ∧
  ∀ (s : State), s.takesCommand →
    (16 ≤ s.param 0 1 → s.param 0 1 ≠ 255 → exec .flush s = .next (s.ended .refusedParam)) ∧
    ∀ scope : Option RegionId,
      (s.param 0 1 = match scope with | none => 255 | some r => r.val) →
      ∀ ls : List LineId,
        ls = (allLines.filter fun l =>
          ((s.line l).state == .dirty || (s.line l).state == .cleaning || (s.line l).state == .stranded) &&
            (match (s.line l).key with
              | some k => scope.all (· == k.1)
              | none => false)) →
        (ls = [] → exec .flush s = .next (s.ended .doneOk)) ∧
        (ls ≠ [] → exec .flush s = .next (ls.foldl (fun u l => demandWriteback l u)
          { s.started 0x13 .flush with tc := { s.tc with flushes := s.tc.flushes ++
            [⟨.command, scope, ls.filterMap fun l => (s.line l).key, 0⟩] } }))

/-- A write-back's completion. OK, not redirtied, on no flush list and with nothing deferred: the line is CLEAN with attempts 0
(R104). ERROR at the first or second attempt: DIRTY again, the 32 µs retry timer started, TAG_WRITE_RETRY posted (R105). ERROR at
the third: a pinned line is STRANDED; an unpinned one is discarded, with TAGS_DISCARDED posted (R105, R106). The discard: a region
ONLINE or FORMATTING becomes FAULTED, with REGION_FAULTED posted and its jobs cancelled, a DRAINING one counts the discard, to
65535, and a FAULTED one is unchanged (R135, R136); the key leaves every flush request, counted as discarded, and a FLUSH left with
no key ends DONE_PARTIAL (R108, R109); the operations that waited for the line queue for it again, and tag writes outstanding or
queued no longer name the line (R106). With deferred tag writes, or redirtied: at the completion, whatever its result, the
TAG_WRITEs of the deferred positions join the TAG class in the order deferred (R102); OK and redirtied, the line is DIRTY with
attempts 0 and redirty clear, its write-back demanded by a flush request or the high-water rule (R107, R108); OK and not redirtied
it is CLEAN and leaves the flush requests; ERROR as above. The model's choices: the freed tag's timeout value, 0 (log entry 25);
the order of the records of a discard (log entry 12); an INVALID line's tags (log entry 6); the TAG_WRITEs before write-backs of
the high-water mark, and a flush's write-back before the high-water count (log entry 24). -/
def Obligations.WritebackCompletion : Prop :=
  (∀ (s : State) (t : DownTagId) (q : Request) (l : LineId) (r : RegionId) (line : Nat) (data : List Byte), s.pins.porst = false →
    s.work = [] → (s.downTag t).state = .inFlight → (s.downTag t).request = some q → q.kind = .lineWriteback →
    q.issuer = .line l → (s.line l).key = some (r, line) → (s.line l).state = .cleaning → (s.line l).deferred = [] →
    (∀ f ∈ s.tc.flushes, (r, line) ∉ f.keys ∧ f.keys ≠ []) →
    ((s.line l).redirty = false →
      exec (.downstreamResponse t true data) s = .next (endReset { s with
        ma := { s.ma with tags := vset s.ma.tags t DownTag.powerOn }
        tc := { s.tc with lines := vset s.tc.lines l { s.line l with state := .clean, attempts := 0 } } })) ∧
    ((s.line l).attempts < 2 → s.tc.dirtyCount < 24 →
      exec (.downstreamResponse t false data) s = .next (endReset { s with
        ma := { s.ma with tags := vset s.ma.tags t DownTag.powerOn }
        tc := { s.tc with lines := vset s.tc.lines l { s.line l with
          state := .dirty, redirty := false, attempts := (s.line l).attempts + 1, throughFault := true, reserved := false
          retryTimer := some 32 } }
        el := s.el.offer { Record.plain .tagWriteRetry .tagCache with
          region := some r, block := some (8 * line), tagLine := some (r, line)
          attempt := some ((s.line l).attempts + 1) } }))) ∧
  (∀ (s u : State) (t : DownTagId) (q : Request) (l : LineId) (r : RegionId) (line : Nat) (data : List Byte) (x : Line),
    s.pins.porst = false → (s.downTag t).state = .inFlight → (s.downTag t).request = some q → q.kind = .lineWriteback →
    q.issuer = .line l → x = s.line l → x.key = some (r, line) → x.state = .cleaning → x.deferred = [] → 2 ≤ x.attempts →
    u = { s with ma := { s.ma with tags := vset s.ma.tags t DownTag.powerOn } } →
    (x.pinners ≠ [] → exec (.downstreamResponse t false data) s = .next (run { u with tc := { s.tc with
      lines := vset s.tc.lines l { x with
        state := .stranded, attempts := x.attempts + 1, throughFault := true, reserved := false } } })) ∧
    (x.pinners = [] →
      (∀ w ∈ s.ma.tagQueue ++ s.ma.workQueue ++ s.ma.sweepQueue, ∀ m k, w.issuer ≠ .tagWrite (some l) m k) →
      (∀ d w, (s.downTag d).request = some w → ∀ m k, w.issuer ≠ .tagWrite (some l) m k) →
      exec (.downstreamResponse t false data) s = .next (run (requeueWaiters r line x.waiters (leaveFlushes (r, line) true
        (lineLost r line { u with
          tc := { s.tc with lines := vset s.tc.lines l Line.powerOn, lru := s.tc.lru.filter (· != l) }
          el := s.el.offer { Record.plain .tagsDiscarded .tagCache with
            region := some r, block := some (8 * line), tagLine := some (r, line) } })))))) ∧
  (∀ (r : RegionId) (line : Nat) (y : State),
    ((y.region r).state = .online ∨ (y.region r).state = .formatting →
      lineLost r line y = cancelJobs (fun j => j.region == r) { y with
        ru := { y.ru with regions := vset y.ru.regions r { y.region r with state := .faulted } }
        el := y.el.offer { Record.plain .regionFaulted .tagCache with
          region := some r, block := some (8 * line), tagLine := some (r, line) } }) ∧
    ((y.region r).state = .draining → lineLost r line y = { y with ru := { y.ru with
      regions := vset y.ru.regions r { y.region r with
        drainDiscards :=
          if (y.region r).drainDiscards < 65535 then (y.region r).drainDiscards + 1 else (y.region r).drainDiscards } } }) ∧
    ((y.region r).state = .faulted → lineLost r line y = y) ∧
    requeueWaiters r line [] y = y ∧
    (∀ ws, ws ≠ [] → (∀ k ∈ y.tc.alloc, ¬ (k.region = r ∧ k.line = line)) →
      requeueWaiters r line ws y = { y with tc := { y.tc with alloc := y.tc.alloc ++ [⟨r, line, ws⟩] } }) ∧
    ((∀ f ∈ y.tc.flushes, f.keys.filter (· != (r, line)) ≠ []) →
      leaveFlushes (r, line) true y = { y with tc := { y.tc with flushes := y.tc.flushes.map fun f =>
        if (r, line) ∈ f.keys then { f with keys := f.keys.filter (· != (r, line)), discarded := f.discarded + 1 } else f } }) ∧
    ∀ scope d, y.tc.flushes = [⟨.command, scope, [(r, line)], d⟩] →
      leaveFlushes (r, line) true y = finishCommand .donePartial { y with tc := { y.tc with flushes := [] } }) ∧
  (∀ (s u w : State) (t : DownTagId) (q : Request) (ok : Bool) (data : List Byte) (l : LineId) (r : RegionId)
      (line : Nat) (x : Line),
    s.pins.porst = false → (s.downTag t).state = .inFlight → (s.downTag t).request = some q → q.kind = .lineWriteback →
    q.issuer = .line l → x = s.line l → x.key = some (r, line) → x.state = .cleaning →
    u = { s with ma := { s.ma with tags := vset s.ma.tags t DownTag.powerOn } } →
    w = { u with ma := { u.ma with tagQueue := s.ma.tagQueue ++ x.deferred.map fun d =>
      { kind := .tagWrite, cls := .tag, address := (s.region r).tagBase + 8 * (8 * line + d.position.val), length := 8
        data := encodeTag (vget x.tags d.position), enables := List.replicate 8 true, issuer := .tagWrite (some l) d.maker d.part
        key := ⟨some r, some (8 * line + d.position.val), none, some (r, line)⟩, inReset := false } } } →
    (ok = true → x.redirty = true →
      exec (.downstreamResponse t ok data) s = .next (run (highWater (demandWriteback l { w with tc := { s.tc with
        lines := vset s.tc.lines l { x with
          state := .dirty, redirty := false, attempts := 0, reserved := false, deferred := [] } } })))) ∧
    (ok = true → x.redirty = false →
      exec (.downstreamResponse t ok data) s = .next (run (leaveFlushes (r, line) false { w with tc := { s.tc with
        lines := vset s.tc.lines l { x with state := .clean, attempts := 0, deferred := [] } } }))) ∧
    (ok = false → x.attempts < 2 →
      exec (.downstreamResponse t ok data) s = .next (run (highWater (demandWriteback l { w with
        tc := { s.tc with lines := vset s.tc.lines l { x with
          state := .dirty, redirty := false, attempts := x.attempts + 1, throughFault := true, reserved := false
          retryTimer := some 32, deferred := [] } }
        el := s.el.offer { Record.plain .tagWriteRetry .tagCache with
          region := some r, block := some (8 * line), tagLine := some (r, line), attempt := some (x.attempts + 1) } })))) ∧
    (ok = false → 2 ≤ x.attempts → x.pinners ≠ [] →
      exec (.downstreamResponse t ok data) s = .next (run { w with tc := { s.tc with
        lines := vset s.tc.lines l { x with
          state := .stranded, attempts := x.attempts + 1, throughFault := true, reserved := false, deferred := [] } } })) ∧
    (ok = false → 2 ≤ x.attempts → x.pinners = [] →
      exec (.downstreamResponse t ok data) s = .next (run (discardLine l { w with tc := { s.tc with
        lines := vset s.tc.lines l { x with
          state := .stranded, attempts := x.attempts + 1, throughFault := true, reserved := false, deferred := [] } } })))) ∧
  ∀ (y : State) (l : LineId) (r : RegionId) (line : Nat) (cut : Request → Request), (y.line l).key = some (r, line) →
    (∀ q m k, q.issuer = .tagWrite (some l) m k → cut q = { q with issuer := .tagWrite none m k }) →
    (∀ q, (∀ m k, q.issuer ≠ .tagWrite (some l) m k) → cut q = q) →
    discardLine l y = requeueWaiters r line (y.line l).waiters (leaveFlushes (r, line) true (lineLost r line { y with
      tc := { y.tc with lines := vset y.tc.lines l Line.powerOn, lru := y.tc.lru.filter (· != l) }
      ma := { y.ma with
        tagQueue := y.ma.tagQueue.map cut, workQueue := y.ma.workQueue.map cut, sweepQueue := y.ma.sweepQueue.map cut
        tags := y.ma.tags.map fun d => { d with request := d.request.map cut } }
      el := y.el.offer { Record.plain .tagsDiscarded .tagCache with
        region := some r, block := some (8 * line), tagLine := some (r, line) } }))

/-! ## The memory port (chapter 10) -/

/-- REQUEST_GRANT (R162): nothing without a FREE tag or a request; otherwise the lowest-numbered FREE tag takes the head of the
class the order chooses, is sent, and the examination goes on. -/
def Obligations.GrantTakesTheChosenRequest : Prop :=
  (∀ s : State, (∀ t, (s.downTag t).state ≠ .free) ∨
      (s.ma.tagQueue = [] ∧ s.ma.workQueue = [] ∧ s.ma.sweepQueue = []) → exec .requestGrant s = .next s) ∧
  ∀ (s : State) (t : DownTagId) (q : Request) (m : MemoryArbiter), (s.downTag t).state = .free →
    (∀ u, u < t → (s.downTag u).state ≠ .free) →
    ((∃ rest, s.ma.tagQueue = q :: rest ∧ m = { s.ma with tagQueue := rest }) ∨
      (s.ma.tagQueue = [] ∧ (∃ rest, s.ma.sweepQueue = q :: rest ∧
        m = { s.ma with sweepQueue := rest, shareCounter := 0 }) ∧
        (s.ma.workQueue = [] ∨ s.ma.share ≤ s.ma.shareCounter)) ∨
      (s.ma.tagQueue = [] ∧ (∃ rest, s.ma.workQueue = q :: rest ∧
        m = { s.ma with
          workQueue := rest
          shareCounter := if s.ma.sweepQueue = [] then s.ma.shareCounter else s.ma.shareCounter + 1 }) ∧
        (s.ma.sweepQueue = [] ∨ s.ma.shareCounter < s.ma.share))) →
    ∃ u : State,
      u = { s with
        ma := { m with tags := vset s.ma.tags t ⟨.inFlight, some q, s.ma.timeout, some s.ma.timeout, none⟩ }
        out := { s.out with downstream := s.out.downstream ++
          [⟨t, q.kind == .dataWrite || q.kind == .lineWriteback || q.kind == .tagWrite, q.address, q.length, q.data,
            q.enables⟩] } } ∧
      exec .requestGrant s = exec .requestGrant u ∧
      (m.tagQueue = [] ∧ m.workQueue = [] ∧ m.sweepQueue = [] → exec .requestGrant s = .next u)

/-- DOWNSTREAM_RESPONSE for an IN_FLIGHT tag (R163): the tag becomes FREE (its timeout value 0, the model's choice, log entry 25)
and stays so, and no other tag changes its state or timers, whatever the completion sets off; for a pass-through request the
response is formed as R152 gives, and an OK completion of an ABANDONED slot's write frees the slot (R155). A DATA_WRITE of a write
part (R86, R87): OK lowers the writes outstanding; the last one updates the part's tag, or ends a failed part without an update;
ERROR makes the outcome MEMORY_FAULT and posts MEMORY_WRITE once. The write ends when every part is DONE: it releases and is
answered with the status of its parts, or, abandoned, its slot is FREE (R89, R93). The tag update (R101, R102): the tag is
replaced, a CLEAN line is DIRTY, a CLEANING one redirtied, and in a WRITE_THROUGH region a TAG_WRITE of the 8 bytes is issued, or
deferred by a CLEANING line. A TAG_WRITE's completion (R88, R102): the through count falls and the part is DONE; an OK that brings
it to 0 makes a DIRTY line with through fault clear CLEAN; ERROR makes the part's outcome MEMORY_FAULT and posts the Tag Cache's
MEMORY_WRITE. The model's choices: the new tag stays in the part after its update (log entry 28); a TAG_WRITE joins the TAG class
before the write-backs of the high-water mark, and the line's part of a completion comes before the part's (log entry 24);
MEMORY_WRITE is posted before the part's own effects (log entry 12). -/
def Obligations.ResponseCompletesTheRequest : Prop :=
  (∀ (s : State) (t : DownTagId) (q : Request) (ok : Bool) (data : List Byte), s.pins.porst = false →
    (s.downTag t).state = .inFlight → (s.downTag t).request = some q →
    (∃ u : State, exec (.downstreamResponse t ok data) s = .next u ∧ u.downTag t = DownTag.powerOn ∧
      (∀ d, d ≠ t → (u.downTag d).state = (s.downTag d).state ∧
        (u.downTag d).responseTimer = (s.downTag d).responseTimer ∧
        (u.downTag d).quarantineTimer = (s.downTag d).quarantineTimer) ∧
      u.out = s.out ∧ u.pins = s.pins ∧ u.ma.timeout = s.ma.timeout ∧ u.ma.share = s.ma.share ∧
      u.ma.shareCounter = s.ma.shareCounter) ∧
    ∀ i, q.issuer = .passThrough i → s.work = [] →
      ((s.slot i).state = .passing →
        (ok = true → (s.slot i).kind = .read → q.kind = .dataRead → data.length = q.length →
          exec (.downstreamResponse t ok data) s = .next (endReset { s with
            ma := { s.ma with tags := vset s.ma.tags t DownTag.powerOn }
            tu := {
              slots := vset s.tu.slots i { s.slot i with
                state := .responding
                response := some ⟨(s.slot i).requester, (s.slot i).tid, .read, .okay, false, data⟩ }
              responses := s.tu.responses ++ [i] } })) ∧
        (ok = true → (s.slot i).kind = .write → q.kind = .dataWrite →
          exec (.downstreamResponse t ok data) s = .next (endReset { s with
            ma := { s.ma with tags := vset s.ma.tags t DownTag.powerOn }
            tu := {
              slots := vset s.tu.slots i { s.slot i with
                state := .responding
                response := some ⟨(s.slot i).requester, (s.slot i).tid, .write, .okay, false, []⟩ }
              responses := s.tu.responses ++ [i] } })) ∧
        (ok = false →
          exec (.downstreamResponse t ok data) s = .next (endReset { s with
            ma := { s.ma with tags := vset s.ma.tags t DownTag.powerOn }
            tu := {
              slots := vset s.tu.slots i { s.slot i with
                state := .responding
                response := some ⟨(s.slot i).requester, (s.slot i).tid, (s.slot i).kind, .memoryFault, false,
                  match (s.slot i).kind with
                  | .read => List.replicate (s.slot i).length 0
                  | .write => []⟩ }
              responses := s.tu.responses ++ [i] }
            el := s.el.offer { Record.plain (match (s.slot i).kind with | .read => .memoryRead | .write => .memoryWrite)
                .transaction with who := some ((s.slot i).requester, (s.slot i).tid) } }))) ∧
      ((s.slot i).state = .abandoned → ok = true → q.kind = .dataWrite →
        exec (.downstreamResponse t ok data) s = .next (endReset { s with
          ma := { s.ma with tags := vset s.ma.tags t DownTag.powerOn }
          tu := { s.tu with slots := vset s.tu.slots i Slot.powerOn } }))) ∧
  (∀ (s u : State) (t : DownTagId) (q : Request) (ok : Bool) (data : List Byte) (i : SlotId) (k n : Nat) (p : Part) (r : RegionId),
    s.pins.porst = false → (s.downTag t).state = .inFlight → (s.downTag t).request = some q → q.issuer = .part i k n →
    (s.slot i).kind = .write → (s.slot i).region = some r → (s.slot i).parts[k]? = some p → q.kind = .dataWrite →
    p.phase = .writing →
    u = { s with ma := { s.ma with tags := vset s.ma.tags t DownTag.powerOn } } →
    (ok = true →
      (p.writesOut ≠ 1 →
        exec (.downstreamResponse t ok data) s = .next (run (u.withPart i k { p with writesOut := p.writesOut - 1 }))) ∧
      (p.writesOut = 1 → p.outcome = .memoryFault →
        exec (.downstreamResponse t ok data) s =
          .next (run (endWriteIfDone i (u.withPart i k { p with phase := .done, newTag := none, writesOut := 0 })))) ∧
      ∀ tag, p.writesOut = 1 → p.outcome ≠ .memoryFault → p.newTag = some tag →
        exec (.downstreamResponse t ok data) s = .next (run (endWriteIfDone i (tagUpdate (.slot i) k r p.block tag
          (u.withPart i k { p with
            phase := if (s.region r).tagPolicy = .writeThrough then .tagging else .done, writesOut := 0 }))))) ∧
    (ok = false →
      exec (.downstreamResponse t ok data) s = .next (run (endWriteIfDone i { u.withPart i k { p with
          outcome := .memoryFault, faultPosted := true, writesOut := p.writesOut - 1
          phase := if p.writesOut = 1 then .done else .writing, newTag := if p.writesOut = 1 then none else p.newTag } with
        el := if p.faultPosted then s.el else s.el.offer { Record.plain .memoryWrite .transaction with
          region := some r, block := some p.block, who := some ((s.slot i).requester, (s.slot i).tid) } })))) ∧
  (∀ (s : State) (i : SlotId),
    ((∃ p ∈ (s.slot i).parts, p.phase ≠ .done) → endWriteIfDone i s = s) ∧
    ((∀ p ∈ (s.slot i).parts, p.phase = .done) →
      ((s.slot i).abandoned = true → endWriteIfDone i s = freeSlot i (releaseOp (.slot i) s)) ∧
      ((s.slot i).abandoned = false → ∀ st : Status, (s.slot i).answers st →
        endWriteIfDone i s = respond i st false [] (releaseOp (.slot i) s)))) ∧
  (∀ (s : State) (op : OpId) (k : Nat) (r : RegionId) (block : Nat) (tag : Tag) (l : LineId) (pos : Fin 8) (x : Line),
    (s.line l).key = some (r, block / 8) → (∀ m, m < l → (s.line m).key ≠ some (r, block / 8)) → pos.val = block % 8 →
    x = { s.line l with
      tags := vset (s.line l).tags pos tag, state := if (s.line l).state = .clean then .dirty else (s.line l).state
      redirty := (s.line l).redirty || (s.line l).state == .cleaning } →
    ((s.region r).tagPolicy = .writeBack →
      tagUpdate op k r block tag s = highWater (demandWriteback l { s with tc := { s.tc with lines := vset s.tc.lines l x } })) ∧
    ((s.region r).tagPolicy = .writeThrough → (s.line l).state = .cleaning →
      tagUpdate op k r block tag s = highWater (demandWriteback l { s with tc := { s.tc with
        lines := vset s.tc.lines l { x with through := x.through + 1, deferred := x.deferred ++ [⟨pos, op, k⟩] } } })) ∧
    ((s.region r).tagPolicy = .writeThrough → (s.line l).state ≠ .cleaning →
      tagUpdate op k r block tag s = highWater (demandWriteback l { s with
        tc := { s.tc with lines := vset s.tc.lines l { x with through := x.through + 1 } }
        ma := { s.ma with tagQueue := s.ma.tagQueue ++ [
          { kind := .tagWrite, cls := .tag, address := (s.region r).tagBase + 8 * block, length := 8
            data := encodeTag tag, enables := List.replicate 8 true, issuer := .tagWrite (some l) op k
            key := ⟨some r, some block, none, some (r, block / 8)⟩, inReset := false }] } }))) ∧
  ∀ (s u v : State) (t : DownTagId) (q : Request) (ok : Bool) (data : List Byte) (l : LineId) (i : SlotId) (k : Nat)
      (p : Part) (x : Line),
    s.pins.porst = false → (s.downTag t).state = .inFlight → (s.downTag t).request = some q →
    q.issuer = .tagWrite (some l) (.slot i) k → q.kind = .tagWrite → (s.slot i).parts[k]? = some p → x = s.line l →
    u = { s with ma := { s.ma with tags := vset s.ma.tags t DownTag.powerOn } } →
    (ok = true → ∀ r line, x.key = some (r, line) → x.state = .dirty → x.through = 1 → x.throughFault = false →
      (∀ f ∈ s.tc.flushes, (r, line) ∉ f.keys ∧ f.keys ≠ []) →
      v = { u with tc := { s.tc with lines := vset s.tc.lines l { x with state := .clean, attempts := 0, through := 0 } } } →
      exec (.downstreamResponse t ok data) s = .next (run (endWriteIfDone i (v.withPart i k { p with phase := .done })))) ∧
    (ok = true → ¬ (x.state = .dirty ∧ x.through = 1 ∧ x.throughFault = false) →
      v = highWater (demandWriteback l { u with
        tc := { s.tc with lines := vset s.tc.lines l { x with through := x.through - 1 } } }) →
      exec (.downstreamResponse t ok data) s = .next (run (endWriteIfDone i (v.withPart i k { p with phase := .done })))) ∧
    (ok = false →
      v = highWater (demandWriteback l { u with
        tc := { s.tc with lines := vset s.tc.lines l { x with through := x.through - 1, throughFault := true } } }) →
      exec (.downstreamResponse t ok data) s = .next (run (endWriteIfDone i {
        v.withPart i k { p with phase := .done, outcome := .memoryFault } with
        el := s.el.offer { Record.plain .memoryWrite .tagCache with
          region := q.key.region, block := q.key.block, tagLine := q.key.tagLine } })))

/-- A DATA_READ of a read part completes (R64 to R66): a SPAN part takes the bytes and is DONE; a FULL part's go to its buffer, and
at the last read the block's CRC is held against the tag's guard: SOUND gives the part its bytes; CORRUPT is reported with health
and answered by the read action. ERROR makes the part MEMORY_FAULT with zero data and no poison, posts MEMORY_READ once, and later
bytes are discarded. The read waits while a part is not DONE, then releases and is answered with the parts' status, poison and
bytes, or zeros (R67, R68). Of a write part: a DELTA part keeps the old span bytes and is CHECKED (R80); a VERIFY part's bytes go
to its buffer, and at the last read it is CHECKED, with GUARD only if the block's CRC is the tag's guard, and else REFUSED,
reported as MERGE_REFUSED and to health (R77, R79); ERROR makes it MEMORY_FAULT, posts MEMORY_READ once and refuses it at its last
read; a failed part takes no bytes (R81). The decision (R82) waits while a part is in LOOKUP or READING, and, with none REFUSED,
while one is not CHECKED; with one REFUSED the write releases and is answered with the status of its parts (R89); else it commits
(R83): each part has its merged bytes and new tag, R20's, and goes to WRITING, an empty one to DONE, and its DATA_WRITEs join the
WORK class part 1 first, of the enabled span (R85) or of the whole block (R84). The freed tag's timeout value, 0, is the model's
choice (log entry 25), as is the order of an integrity record and the health records (log entry 12); a part has one buffer, named
here as the lowest-numbered. -/
def Obligations.SpanReadIsAnsweredWithItsBytes : Prop :=
  (∀ (s : State) (t : DownTagId) (q : Request) (data : List Byte) (i : SlotId) (n : Nat) (p : Part), s.pins.porst = false →
    (s.downTag t).state = .inFlight → (s.downTag t).request = some q → q.kind = .dataRead → data.length = q.length →
    q.issuer = .part i 0 n → (s.slot i).kind = .read → (s.slot i).abandoned = false → (s.slot i).parts = [p] →
    p.phase = .reading → p.mode = some .span → p.readsOut = 1 → p.outcome = .okay →
    exec (.downstreamResponse t true data) s = .next (run (respond i .okay p.poison data (releaseOp (.slot i) { s with
      ma := { s.ma with tags := vset s.ma.tags t DownTag.powerOn }
      tu := { s.tu with slots := vset s.tu.slots i { s.slot i with
        parts := [{ p with phase := .done, readsOut := 0, data := data }] } } })))) ∧
  (∀ (s u : State) (t : DownTagId) (q : Request) (ok : Bool) (data : List Byte) (i : SlotId) (k n : Nat) (p : Part),
    s.pins.porst = false → (s.downTag t).state = .inFlight → (s.downTag t).request = some q → q.issuer = .part i k n →
    (s.slot i).kind = .write → (s.slot i).abandoned = false → (s.slot i).parts[k]? = some p → q.kind = .dataRead →
    u = { s with ma := { s.ma with tags := vset s.ma.tags t DownTag.powerOn } } →
    (ok = true → data.length = q.length → p.outcome = .memoryFault →
      exec (.downstreamResponse t ok data) s = .next (run (decideWrite i (u.withPart i k { p with
        phase := if p.readsOut = 1 then .refused else p.phase, readsOut := p.readsOut - 1 })))) ∧
    (ok = true → data.length = q.length → p.outcome ≠ .memoryFault → p.readsOut ≠ 1 → p.path = some .verify → ∀ b : Fin 8,
      (vget s.obt.buffers b).owner = some (i, k) → (∀ c, c < b → (vget s.obt.buffers c).owner ≠ some (i, k)) →
      exec (.downstreamResponse t ok data) s = .next (run (decideWrite i { u.withPart i k { p with readsOut := p.readsOut - 1 } with
        obt := { s.obt with
          buffers := vset s.obt.buffers b ⟨some (i, k), overlay n data (vget s.obt.buffers b).bytes⟩ } }))) ∧
    (ok = true → data.length = q.length → p.outcome ≠ .memoryFault → p.readsOut = 1 →
      (p.path = some .delta →
        exec (.downstreamResponse t ok data) s =
          .next (run (decideWrite i (u.withPart i k { p with phase := .checked, readsOut := 0, oldSpan := data })))) ∧
      ∀ (r : RegionId) (b : Fin 8) (bytes : List Byte), p.path = some .verify → (s.slot i).region = some r →
        (vget s.obt.buffers b).owner = some (i, k) → (∀ c, c < b → (vget s.obt.buffers c).owner ≠ some (i, k)) →
        bytes = overlay n data (vget s.obt.buffers b).bytes →
        ((s.region r).checkSet.guard = false →
          exec (.downstreamResponse t ok data) s = .next (run (decideWrite i {
            u.withPart i k { p with phase := .checked, readsOut := 0 } with
            obt := { s.obt with buffers := vset s.obt.buffers b ⟨some (i, k), bytes⟩ } }))) ∧
        ∀ tg, (s.region r).checkSet.guard = true → p.tag = some tg →
          (crc (bytes.take (s.region r).blockSize) = tg.guard →
            exec (.downstreamResponse t ok data) s =
              .next (run (decideWrite i { u.withPart i k { p with phase := .checked, readsOut := 0, verdict := some .sound } with
                obt := { s.obt with buffers := vset s.obt.buffers b ⟨some (i, k), bytes⟩ } }))) ∧
          ∀ e, (s.slot i).epoch = some e → crc (bytes.take (s.region r).blockSize) ≠ tg.guard →
            exec (.downstreamResponse t ok data) s =
              .next (run (decideWrite i (healthReport .transaction r p.block (some ((s.slot i).requester, (s.slot i).tid))
                { u.withPart i k { p with
                    phase := .refused, outcome := .checkFail, readsOut := 0, verdict := some .corrupt } with
                  obt := { s.obt with buffers := vset s.obt.buffers b ⟨some (i, k), bytes⟩ }
                  el := s.el.offer { Record.plain .mergeRefused .transaction with
                    region := some r, block := some p.block, who := some ((s.slot i).requester, (s.slot i).tid)
                    underlying := some .corrupt, expectedGuard := some (crc (bytes.take (s.region r).blockSize))
                    tags := some ⟨tg, e, BitVec.ofNat 16 (p.block + (s.region r).seed.toNat), (s.region r).label⟩ } })))) ∧
    (∀ r, ok = false → (s.slot i).region = some r →
      exec (.downstreamResponse t ok data) s = .next (run (decideWrite i { u.withPart i k { p with
          outcome := .memoryFault, faultPosted := true, readsOut := p.readsOut - 1
          phase := if p.readsOut = 1 then .refused else p.phase } with
        el := if p.faultPosted then s.el else s.el.offer { Record.plain .memoryRead .transaction with
          region := some r, block := some p.block, who := some ((s.slot i).requester, (s.slot i).tid) } })))) ∧
  (∀ (s : State) (i : SlotId),
    ((∃ p ∈ (s.slot i).parts, p.phase = .lookup ∨ p.phase = .reading) ∨
        ((∀ p ∈ (s.slot i).parts, p.phase ≠ .refused) ∧ ∃ p ∈ (s.slot i).parts, p.phase ≠ .checked) →
      decideWrite i s = s) ∧
    ((∀ p ∈ (s.slot i).parts, p.phase ≠ .lookup ∧ p.phase ≠ .reading) → (∃ p ∈ (s.slot i).parts, p.phase = .refused) →
      (s.slot i).abandoned = false → ∀ st : Status, (s.slot i).answers st →
      decideWrite i s = respond i st false [] (releaseOp (.slot i) s)) ∧
    ∀ (r : RegionId) (e : Epoch), (s.slot i).region = some r → (s.slot i).epoch = some e →
      (∀ p ∈ (s.slot i).parts, p.phase = .checked) →
      ∃ (B : Vector Buffer 8) (ps : List Part) (reqs : List (List Request)),
        decideWrite i s = { s with
          tu := { s.tu with slots := vset s.tu.slots i { s.slot i with committed := true, parts := ps } }
          obt := { s.obt with buffers := B }
          ma := { s.ma with workQueue := s.ma.workQueue ++ reqs.flatten } } ∧
        ps.length = (s.slot i).parts.length ∧ reqs.length = (s.slot i).parts.length ∧
        (∀ b, (vget B b).owner = (vget s.obt.buffers b).owner) ∧
        (∀ b, (∀ k, (vget s.obt.buffers b).owner ≠ some (i, k)) → vget B b = vget s.obt.buffers b) ∧
        ∀ (k : Nat) (p : Part), (s.slot i).parts[k]? = some p →
          (p.path = some .empty → ps[k]? = some { p with phase := .done } ∧ reqs[k]? = some []) ∧
          ∀ (lo hi : Nat) (en : Nat → Bool) (new : List (Nat × Byte)) (tag : BitVec 32 → Tag)
              (w : Nat → List Byte → List Bool → Request),
            p.span = some (lo, hi) → p.offset ≤ lo → lo ≤ hi → hi < p.offset + p.count →
            (∀ j, en j = (s.slot i).enables.getD (p.start + (j - p.offset)) false) →
            new = ((List.range p.count).filter fun j => (s.slot i).enables.getD (p.start + j) false).map
              (fun j => (p.offset + j, (s.slot i).data.getD (p.start + j) 0)) →
            (∀ guard, tag guard = ⟨guard, BitVec.ofNat 16 (p.block + (s.region r).seed.toNat), (s.region r).label, false, e⟩) →
            (∀ off data enables, w off data enables =
              { kind := .dataWrite, cls := .work, address := (s.region r).base + p.block * (s.region r).blockSize + off
                length := data.length, data := data, enables := enables, issuer := .part i k 0
                key := ⟨some r, some p.block, some ((s.slot i).requester, (s.slot i).tid), none⟩, inReset := false }) →
            (p.path = some .delta → ∀ t : Tag, p.tag = some t →
              ps[k]? = some { p with
                phase := .writing, writesOut := 1
                newTag := some (tag (deltaGuard t.guard (s.region r).blockSize
                  (new.map fun x => (x.1, p.oldSpan.getD (x.1 - lo) 0)) new)) } ∧
              reqs[k]? = some [w lo
                ((List.range (hi - lo + 1)).map fun j =>
                  if en (lo + j) then (s.slot i).data.getD (p.start + (lo + j - p.offset)) 0 else p.oldSpan.getD j 0)
                ((List.range (hi - lo + 1)).map fun j => en (lo + j))]) ∧
            ∀ (b : Fin 8) (old merged : List Byte), (vget s.obt.buffers b).owner = some (i, k) →
              (∀ c, c < b → (vget s.obt.buffers c).owner ≠ some (i, k)) →
              old = (vget s.obt.buffers b).bytes.take (s.region r).blockSize →
              (p.path = some .verify → merged = placeBytes new old →
                (vget B b).bytes = merged ++ (vget s.obt.buffers b).bytes.drop merged.length ∧
                ps[k]? = some { p with phase := .writing, writesOut := 1, newTag := some (tag (crc merged)) } ∧
                reqs[k]? = some [w lo
                  ((List.range (hi - lo + 1)).map fun j =>
                    if en (lo + j) then (s.slot i).data.getD (p.start + (lo + j - p.offset)) 0 else old.getD (lo + j) 0)
                  ((List.range (hi - lo + 1)).map fun j => en (lo + j))]) ∧
              (p.path = some .blankFill → merged = placeBytes new (List.replicate (s.region r).blockSize 0) →
                (vget B b).bytes = merged ++ (vget s.obt.buffers b).bytes.drop merged.length ∧
                ps[k]? = some { p with
                  phase := .writing, writesOut := (s.region r).blockSize / 256, newTag := some (tag (crc merged)) } ∧
                reqs[k]? = some ((List.range ((s.region r).blockSize / 256)).map fun j =>
                  w (256 * j) (slice (256 * j) 256 merged) (List.replicate 256 true)))) ∧
  (∀ (s u : State) (t : DownTagId) (q : Request) (ok : Bool) (data : List Byte) (i : SlotId) (k n : Nat) (p : Part) (r : RegionId),
    s.pins.porst = false → (s.downTag t).state = .inFlight → (s.downTag t).request = some q → q.issuer = .part i k n →
    (s.slot i).kind = .read → (s.slot i).abandoned = false → (s.slot i).parts[k]? = some p → q.kind = .dataRead →
    (s.slot i).region = some r → u = { s with ma := { s.ma with tags := vset s.ma.tags t DownTag.powerOn } } →
    (ok = true → data.length = q.length → p.outcome = .memoryFault →
      exec (.downstreamResponse t ok data) s = .next (run (endReadIfDone i (u.withPart i k { p with
        phase := if p.readsOut = 1 then .done else p.phase, readsOut := p.readsOut - 1 })))) ∧
    (ok = true → data.length = q.length → p.outcome ≠ .memoryFault → p.mode = some .span → p.readsOut = 1 →
      exec (.downstreamResponse t ok data) s =
        .next (run (endReadIfDone i (u.withPart i k { p with phase := .done, readsOut := 0, data := data })))) ∧
    (ok = true → data.length = q.length → p.outcome ≠ .memoryFault → p.mode = some .full → ∀ (b : Fin 8) (bytes block : List Byte),
      (vget s.obt.buffers b).owner = some (i, k) → (∀ c, c < b → (vget s.obt.buffers c).owner ≠ some (i, k)) →
      bytes = overlay n data (vget s.obt.buffers b).bytes → block = bytes.take (s.region r).blockSize →
      (p.readsOut ≠ 1 →
        exec (.downstreamResponse t ok data) s = .next (run (endReadIfDone i {
          u.withPart i k { p with readsOut := p.readsOut - 1 } with
          obt := { s.obt with buffers := vset s.obt.buffers b ⟨some (i, k), bytes⟩ } }))) ∧
      ∀ tg, p.readsOut = 1 → p.tag = some tg →
        (crc block = tg.guard →
          exec (.downstreamResponse t ok data) s = .next (run (endReadIfDone i {
            u.withPart i k { p with
              phase := .done, readsOut := 0, verdict := some .sound, data := slice p.offset p.count block } with
            obt := { s.obt with buffers := vset s.obt.buffers b ⟨some (i, k), bytes⟩ } }))) ∧
        ∀ e p', (s.slot i).epoch = some e → crc block ≠ tg.guard →
          ((s.region r).readAction = .fail → p' = { p with
            phase := .done, readsOut := 0, verdict := some .corrupt, outcome := .checkFail }) →
          ((s.region r).readAction = .poison → p' = { p with
            phase := .done, readsOut := 0, verdict := some .corrupt, poison := true, data := slice p.offset p.count block }) →
          ((s.region r).readAction = .report → p' = { p with
            phase := .done, readsOut := 0, verdict := some .corrupt, data := slice p.offset p.count block }) →
          exec (.downstreamResponse t ok data) s = .next (run (endReadIfDone i
            (healthReport .transaction r p.block (some ((s.slot i).requester, (s.slot i).tid)) { u.withPart i k p' with
              obt := { s.obt with buffers := vset s.obt.buffers b ⟨some (i, k), bytes⟩ }
              el := s.el.offer { Record.plain .corrupt .transaction with
                region := some r, block := some p.block, who := some ((s.slot i).requester, (s.slot i).tid)
                expectedGuard := some (crc block)
                tags := some ⟨tg, e, BitVec.ofNat 16 (p.block + (s.region r).seed.toNat), (s.region r).label⟩ } })))) ∧
    (ok = false →
      exec (.downstreamResponse t ok data) s = .next (run (endReadIfDone i { u.withPart i k { p with
          outcome := .memoryFault, poison := false, data := List.replicate p.count 0, faultPosted := true
          readsOut := p.readsOut - 1, phase := if p.readsOut = 1 then .done else p.phase } with
        el := if p.faultPosted then s.el else s.el.offer { Record.plain .memoryRead .transaction with
          region := some r, block := some p.block, who := some ((s.slot i).requester, (s.slot i).tid) } })))) ∧
  ∀ (s : State) (i : SlotId),
    ((∃ p ∈ (s.slot i).parts, p.phase ≠ .done) → endReadIfDone i s = s) ∧
    ((∀ p ∈ (s.slot i).parts, p.phase = .done) → (s.slot i).abandoned = false → ∀ (st : Status) (po : Bool), (s.slot i).answers st →
      (po = true ↔ ∃ p ∈ (s.slot i).parts, p.poison = true) →
      endReadIfDone i s = respond i st po
        (if st = .okay then (s.slot i).parts.flatMap (·.data) else List.replicate (s.slot i).length 0)
        (releaseOp (.slot i) s))

/-- RESPONSE_TIMER_EXPIRY (R164): TIMEOUT is posted, the issuer is handed an error completion, and the tag is QUARANTINED for 8 ×
t, and stays so; a tag not IN_FLIGHT has no running timer, and its expiry does nothing (log entry 8). R165: a response for a
QUARANTINED tag posts LATE_RESPONSE with the tag's key and frees it; for a FREE tag LATE_RESPONSE without a key; the expiry of a
quarantine frees the tag without a record. The timeout value of a freed tag, 0, is the model's choice (log entry 25). -/
def Obligations.ExpiryQuarantinesAndLateResponsesAreDiscarded : Prop :=
  (∀ (s : State) (t : DownTagId),
      (∀ (ok : Bool) (data : List Byte), s.pins.porst = false →
        (∀ q, (s.downTag t).state = .quarantined → (s.downTag t).request = some q →
          exec (.downstreamResponse t ok data) s = .next { s with
            ma := { s.ma with tags := vset s.ma.tags t DownTag.powerOn }
            el := s.el.offer { Record.plain .lateResponse .downstream with
              region := q.key.region, block := q.key.block, who := q.key.who, tagLine := q.key.tagLine } }) ∧
        ((s.downTag t).state = .free →
          exec (.downstreamResponse t ok data) s = .next { s with
            el := s.el.offer (Record.plain .lateResponse .downstream) })) ∧
      ((s.downTag t).state = .quarantined →
        exec (.quarantineTimerExpiry t) s = .next { s with ma := { s.ma with tags := vset s.ma.tags t DownTag.powerOn } }) ∧
      ((s.downTag t).state ≠ .quarantined → exec (.quarantineTimerExpiry t) s = .next s)) ∧
  ∀ (s : State) (t : DownTagId),
    ((s.downTag t).state ≠ .inFlight → exec (.responseTimerExpiry t) s = .next s) ∧
    ∀ q, (s.downTag t).state = .inFlight → (s.downTag t).request = some q →
      ∃ u : State, exec (.responseTimerExpiry t) s = .next u ∧
        u = run (complete q false [] { s with
          el := s.el.offer { Record.plain .timeout .downstream with
            region := q.key.region, block := q.key.block, who := q.key.who, tagLine := q.key.tagLine }
          ma := { s.ma with tags := vset s.ma.tags t { s.downTag t with
            state := .quarantined, responseTimer := none, quarantineTimer := some (8 * (s.downTag t).timeout) } } }) ∧
        (u.downTag t).state = .quarantined ∧ (u.downTag t).responseTimer = none ∧
        (u.downTag t).quarantineTimer = some (8 * (s.downTag t).timeout)

/-- The bytes of an OK response (R163, and R165 for a stale response that reaches a tag granted again): a read is handed the bytes
the response carries. The model's choices, which the manual leaves open (log entry 18): of more bytes than the read asked for the
first are taken and the surplus has no effect, and each missing byte is a free value, shown for a pass-through read. A LINE_FILL
(R99, R100): OK makes the line CLEAN with the eight tags of the 64 bytes, and each waiting part is handed its block's tag, in
wait-list order; ERROR makes it INVALID without a key, posts TAG_READ, and tells each waiting part. Either may end the drain of the
line's region (R110): with the drain's flush complete and no line of the region FILLING, its CLEAN lines are INVALID, the region is
CONFIGURED, and the drain is reported. The parts are handed their tags within the same step, after what was already under way (log
entry 3); the timeout value of the freed tag, the tags an INVALID line holds and the discard count kept after a drain are the
model's choices (log entries 25, 6, 27). -/
def Obligations.ReadIsHandedTheBytesOfItsResponse : Prop :=
  (∀ (s : State) (t : DownTagId) (q : Request) (data : List Byte), s.pins.porst = false → (s.downTag t).state = .inFlight →
    (s.downTag t).request = some q → q.kind = .dataRead ∨ q.kind = .lineFill →
    exec (.downstreamResponse t true data) s = exec (.downstreamResponse t true (data.take q.length)) s ∧
    ∀ i, q.kind = .dataRead → q.issuer = .passThrough i → s.work = [] → (s.slot i).state = .passing → (s.slot i).kind = .read →
      ∃ missing : List Byte, missing.length = q.length - data.length ∧
        exec (.downstreamResponse t true data) s = .next (endReset { s with
          ma := { s.ma with tags := vset s.ma.tags t DownTag.powerOn }
          tu := {
            slots := vset s.tu.slots i { s.slot i with
              state := .responding
              response := some ⟨(s.slot i).requester, (s.slot i).tid, .read, .okay, false, data.take q.length ++ missing⟩ }
            responses := s.tu.responses ++ [i] }
          free := s.free + missing.length })) ∧
  (∀ (s u : State) (t : DownTagId) (q : Request) (data : List Byte) (l : LineId) (r : RegionId) (line : Nat) (x : Line),
    s.pins.porst = false → (s.downTag t).state = .inFlight → (s.downTag t).request = some q → q.kind = .lineFill →
    q.issuer = .line l → x = s.line l → x.key = some (r, line) → x.state = .filling →
    u = { s with ma := { s.ma with tags := vset s.ma.tags t DownTag.powerOn } } →
    (data.length = q.length → ∃ ws : List Task,
      exec (.downstreamResponse t true data) s = .next (run (tryEndDrain r { u with
        tc := { s.tc with
          lines := vset s.tc.lines l { x with tags := decodeTags data, state := .clean, attempts := 0, waiters := [] } }
        work := s.work ++ ws })) ∧
      ws.length = x.waiters.length ∧
      (∀ (j : Nat) (i : SlotId) (k : Nat) (p : Part), x.waiters[j]? = some (.slot i, k) → (s.slot i).parts[k]? = some p →
        ws[j]? = some (.handTag (.slot i) k (decodeTag (slice (8 * (p.block % 8)) 8 data)))) ∧
      ∀ (j k : Nat) (jb : Job) (rest : List Job), x.waiters[j]? = some (.sweep, k) → s.su.jobs = jb :: rest →
        ws[j]? = some (.handTag .sweep k (decodeTag (slice (8 * (jb.position % 8)) 8 data)))) ∧
    exec (.downstreamResponse t false data) s = .next (run (tryEndDrain r { u with
      tc := { s.tc with lines := vset s.tc.lines l Line.powerOn, lru := s.tc.lru.filter (· != l) }
      el := s.el.offer { Record.plain .tagRead .tagCache with
        region := some r, block := some (8 * line), tagLine := some (r, line) }
      work := s.work ++ x.waiters.map fun w => .fillFailed w.1 w.2 }))) ∧
  ∀ (r : RegionId) (y : State),
    ((y.region r).state ≠ .draining ∨ (y.region r).drainFlushed = false ∨
        (∃ m line, (y.line m).state = .filling ∧ (y.line m).key = some (r, line)) → tryEndDrain r y = y) ∧
    ((y.region r).state = .draining → (y.region r).drainFlushed = true →
      (∀ m line, (y.line m).key = some (r, line) → (y.line m).state ≠ .filling) →
      ∀ gone : LineId → Bool, (∀ m, gone m = true ↔ (y.line m).state = .clean ∧ ∃ line, (y.line m).key = some (r, line)) →
      tryEndDrain r y = reportDrain r (y.region r).drainDiscards { y with
        tc := { y.tc with
          lines := Vector.ofFn fun m => if gone m then Line.powerOn else y.line m
          lru := y.tc.lru.filter fun m => !gone m }
        ru := { y.ru with regions := vset y.ru.regions r { y.region r with
          state := .configured, drainPhase := none, drainFlushed := false } } })

/-! ## The event log (chapter 11) -/

/-- R172: an access kind whose setting is off is not taken in and changes nothing; every other kind is taken in. R173: a record
taken in whose kind, source, region and block equal the tail's only raises the tail's repeat count, to at most 255, full log or
not. -/
def Obligations.OfferIsFilteredOrMerged : Prop :=
  (∀ (e : EventLog) (r : Record),
      ((r.kind = .denied ∧ e.logMask.denied = false) ∨ (r.kind = .unavailable ∧ e.logMask.unavailable = false) ∨
          (r.kind = .malformed ∧ e.logMask.malformed = false) → e.takes r.kind = false ∧ e.offer r = e) ∧
      (¬ ((r.kind = .denied ∧ e.logMask.denied = false) ∨ (r.kind = .unavailable ∧ e.logMask.unavailable = false) ∨
          (r.kind = .malformed ∧ e.logMask.malformed = false)) → e.takes r.kind = true)) ∧
  ∀ (e : EventLog) (r t : Record) (front : List Record), e.takes r.kind = true → e.log = front ++ [t] →
    r.kind = t.kind → r.source = t.source → r.region = t.region → r.block = t.block →
    e.offer r = { e with log := front ++
      [{ t with repeatCount := if t.repeatCount < 255 then t.repeatCount + 1 else t.repeatCount }] }

/-- R174: a record taken in and not merged is appended with the counter's value and a repeat count of 1, or dropped when the log
holds 32; Law 11 holds after every offer and every ACK. -/
def Obligations.UnmatchedRecordIsAppendedOrDropped : Prop :=
  (∀ (e : EventLog) (r : Record), e.takes r.kind = true →
    (∀ front t, e.log = front ++ [t] →
      ¬ (r.kind = t.kind ∧ r.source = t.source ∧ r.region = t.region ∧ r.block = t.block)) →
    (e.log.length < 32 →
      ∃ l : List Record, l = e.log ++ [{ r with seq := e.seq, repeatCount := 1 }] ∧
        e.offer r = { e with log := l, seq := e.seq + 1, alert := ({ e with log := l } : EventLog).condition }) ∧
    (32 ≤ e.log.length →
      e.offer r = { e with
        dropped := if e.dropped < 65535 then e.dropped + 1 else e.dropped, overflow := true
        alert := ({ e with overflow := true } : EventLog).condition })) ∧
  ∀ e : EventLog, e.Law → e.acknowledge.Law ∧ ∀ r, (e.offer r).Law

/-- The alert condition (R176), with the order of the alert mask's settings (12.4.2, Table 11-3). SET ALERT MASK (R178): the whole
mask is replaced and the condition is taken at once over the records held. -/
def Obligations.AlertConditionAndSetAlertMask : Prop :=
  ((∀ e : EventLog, e.condition = true ↔
      (∃ r ∈ e.log, vget e.alertMask r.kind.number = true) ∨ (e.overflow = true ∧ vget e.alertMask 21 = true)) ∧
    [RecordKind.stale, .misplaced, .foreign, .corrupt, .mergeRefused, .memoryRead, .memoryWrite, .tagRead, .tagWriteRetry,
      .tagsDiscarded, .timeout, .lateResponse, .denied, .unavailable, .malformed, .sweepDone, .sweepCancelled, .healthWarn,
      .regionFenced, .regionFaulted, .mailboxOverrun].map (fun k => k.number.val) = List.range 21) ∧
  ∀ s : State, s.takesCommand →
    (∀ bs : Vector Bool 22, (∀ k : Fin 22, s.param k.val 1 = bit (vget bs k)) →
      exec .setAlertMask s = .next { s.ended .doneOk with
        el := { s.el with alertMask := bs, alert := ({ s.el with alertMask := bs } : EventLog).condition } }) ∧
    ((∃ k : Fin 22, 1 < s.param k.val 1) → exec .setAlertMask s = .next (s.ended .refusedParam))

/-- ACK (R175): any value written to the ACK register removes the head; with the log empty it changes nothing. The alert line is
taken afresh (R176). -/
def Obligations.AckRemovesTheHead : Prop :=
  ∀ (s : State) (v : Byte), s.writingAt 0xF0 →
    (s.el.log = [] → exec (.ack v) s = .next s.acked) ∧
    ∀ r rest, s.el.log = r :: rest →
      exec (.ack v) s = .next { s.acked with
        el := { s.el with log := rest, alert := ({ s.el with log := rest } : EventLog).condition } }

/-- SET LOG MASK (R177) replaces the three settings and changes no record; a setting other than 0 and 1 is refused. CLEAR LOG
OVERFLOW (R179) zeroes the dropped count, clears the flag and takes the alert condition afresh. -/
def Obligations.SetLogMaskAndClearOverflow : Prop :=
  (∀ s : State, s.takesCommand →
      (∀ d u m : Bool, s.param 0 1 = bit d → s.param 1 1 = bit u → s.param 2 1 = bit m →
        exec .setLogMask s = .next { s.ended .doneOk with el := { s.el with logMask := ⟨d, u, m⟩ } }) ∧
      (1 < s.param 0 1 ∨ 1 < s.param 1 1 ∨ 1 < s.param 2 1 → exec .setLogMask s = .next (s.ended .refusedParam))) ∧
  ∀ s : State, s.takesCommand →
    exec .clearLogOverflow s = .next { s.ended .doneOk with
      el := { s.el with dropped := 0, overflow := false, alert := ({ s.el with overflow := false } : EventLog).condition } }

/-! ## The Management Port (chapter 12) -/

/-- Start, repeated start and stop conditions, the address byte and the offset byte (R180). These are the model's: a start condition
opens a transfer in every phase, also in a transfer that is ignored because it names another target (log entry 22); the order of an
address byte's bits (log entry 10); the not-acknowledge bit recorded for another target's address byte (log entry 4). No transfer is
answered while PORST# is asserted (R190). Bytes the MP takes no part in, while no transfer names it, in a read transfer, or with
PORST# asserted, change nothing (log entry 9). -/
def Obligations.BusTransfersOpenAndEnd : Prop :=
  (∀ s : State,
      (s.pins.porst = true → exec .startCondition s = .next s ∧ exec .stopCondition s = .next s) ∧
      (s.pins.porst = false →
        exec .startCondition s = .next { s with mp := { s.mp with phase := .address, window := none } } ∧
        exec .stopCondition s = .next { s with mp := { s.mp with phase := .idle, window := none } } ∧
        (∀ v : Byte, s.mp.phase = .address →
          (v.toNat / 2 = 0x2C + s.mp.strap.toNat →
            exec (.targetAddressByte v) s = .next { s with
              mp := { s.mp with phase := if v.toNat % 2 = 1 then .reading else .offset }
              out := { s.out with bus := s.out.bus ++ [.ackBit true] } }) ∧
          (v.toNat / 2 ≠ 0x2C + s.mp.strap.toNat →
            exec (.targetAddressByte v) s = .next { s with
              mp := { s.mp with phase := .ignored }, out := { s.out with bus := s.out.bus ++ [.ackBit false] } })) ∧
        ∀ v : Byte, s.mp.phase = .offset →
          exec (.registerOffsetByte v) s = .next { s with
            mp := { s.mp with offset := v, phase := .writing }
            out := { s.out with bus := s.out.bus ++ [.ackBit true] } })) ∧
  ∀ (c : Instr) (v : Byte) (s : State), busByte c = some v →
    (s.pins.porst = true ∨ s.mp.phase = .idle ∨ s.mp.phase = .ignored ∨ s.mp.phase = .reading ∨ s.mp.phase = .readEnded) →
    exec c s = .next s

/-- REGISTER_WRITE (R180) and UNKNOWN_COMMAND (R181): a parameter register takes the byte; a read-only register or an offset without
a register acknowledges it without effect; a code outside 0x01 to 0x19 is refused REFUSED_PARAM. -/
def Obligations.RegisterWritesAndUnknownCodes : Prop :=
  ∀ (s : State) (v : Byte),
    (∀ k : Fin 28, s.writingAt (BitVec.ofNat 8 (0x14 + k.val)) →
      exec (.registerWrite v) s = .next { s.acked with mp := { s.acked.mp with params := vset s.mp.params k v } }) ∧
    (∀ off : Byte, s.writingAt off → off ≠ 0x10 → off ≠ 0x12 → off ≠ 0xF0 → off.toNat < 0x14 ∨ 0x30 ≤ off.toNat →
      exec (.registerWrite v) s = .next s.acked) ∧
    (s.takesCommand → v.toNat = 0 ∨ 25 < v.toNat → exec (.unknownCommand v) s = .next (s.ended .refusedParam))

/-- R184: a command code written while the mailbox is BUSY is ignored but for the overrun flag and its record; a write of any
value to the status register clears the flag and takes DONE to IDLE. -/
def Obligations.OverrunAndStatusWrite : Prop :=
  ∀ s : State,
    (∀ (c : Instr) (code : Byte), commandCode c = some code → s.writingAt 0x12 → s.mp.mailbox = .busy →
      exec c s = .next { s.acked with
        mp := { s.acked.mp with overrun := true }, el := s.el.offer (Record.plain .mailboxOverrun .management) }) ∧
    ∀ v : Byte, s.writingAt 0x10 →
      exec (.statusWrite v) s = .next { s.acked with
        mp := { s.acked.mp with overrun := false, mailbox := if s.mp.mailbox = .done then .idle else s.mp.mailbox } }

/-- R183: a command refused with a refusal code changes nothing beyond the mailbox. -/
def Obligations.RefusedCommandsChangeOnlyTheMailbox : Prop :=
  ∀ (c : Instr) (code : Byte) (s t : State), commandCode c = some code → s.takesCommand → s.work = [] → exec c s = .next t →
    t.mp.result = .refusedState ∨ t.mp.result = .refusedParam ∨ t.mp.result = .refusedConflict ∨
      t.mp.result = .refusedLocked ∨ t.mp.result = .queueFull →
    t = s.ended t.mp.result

/-- LOG_HEAD_READ (R180, R187, R175): the byte at the offset is placed, the offset rises, an unacknowledged byte is the last; the
log window is taken at its first byte and kept for the transfer. The byte of a write-only register is a free value (log entry 19).
The window (12.4.3): 64 bytes; the record count, the overflow flag and the dropped count; with the log empty all else is zero;
otherwise the head's sequence number, kind and repeat count at their offsets. That the unassigned bits of the mailbox status byte and
of the window's overflow byte are 0 is the model's choice (log entry 26). -/
def Obligations.ReadTransferPlacesTheRegisterByte : Prop :=
  ((∀ (s : State) (more : Bool), s.pins.porst = true ∨ s.mp.phase ≠ .reading → exec (.logHeadRead more) s = .next s) ∧
    ∀ (s : State) (more : Bool), s.pins.porst = false → s.mp.phase = .reading →
      ∃ (w : List Byte) (v : Byte), w = s.mp.window.getD s.el.window ∧
        exec (.logHeadRead more) s = .next { s with
          mp := { s.mp with
            offset := s.mp.offset + 1, phase := if more then .reading else .readEnded
            window := if 0xB0 ≤ s.mp.offset.toNat ∧ s.mp.offset.toNat < 0xF0 then some w else s.mp.window }
          out := { s.out with bus := s.out.bus ++ [.byte v] }
          free := if s.mp.offset = 0x12 ∨ s.mp.offset = 0xF0 then s.free + 1 else s.free } ∧
        (s.mp.offset.toNat < 13 →
          v = [(0x71 : Byte), 0x3A, 0x12, 0x04, 0x01, 16, 24, 32, 8, 32, 16, 32, 4].getD s.mp.offset.toNat 0) ∧
        (s.mp.offset = 0x10 →
          v.toNat = (match s.mp.mailbox with | .idle => 0 | .busy => 1 | .done => 2) + (if s.mp.overrun then 4 else 0)) ∧
        (s.mp.offset = 0x11 → v.toNat = match s.mp.result with
          | .noResult => 0x00 | .doneOk => 0x01 | .donePartial => 0x02 | .refusedState => 0x10 | .refusedParam => 0x11
          | .refusedConflict => 0x12 | .refusedLocked => 0x13 | .queueFull => 0x14) ∧
        (∀ k : Fin 28, s.mp.offset.toNat = 0x14 + k.val → v = vget s.mp.params k) ∧
        (∀ k : Fin 128, s.mp.offset.toNat = 0x30 + k.val → v = vget s.mp.results k) ∧
        (∀ k : Fin 64, s.mp.offset.toNat = 0xB0 + k.val → v = w.getD k.val 0) ∧
        (s.mp.offset = 0x0D ∨ s.mp.offset = 0x0E ∨ s.mp.offset = 0x0F ∨ s.mp.offset = 0x13 ∨ 0xF0 < s.mp.offset.toNat → v = 0)) ∧
  ∀ e : EventLog, e.window.length = 64 ∧
    (e.log.length ≤ 32 → leNat (slice 0 1 e.window) = e.log.length) ∧
    leNat (slice 1 1 e.window) = (if e.overflow then 1 else 0) ∧
    (e.dropped ≤ 65535 → leNat (slice 2 2 e.window) = e.dropped) ∧
    (e.log = [] → slice 4 60 e.window = List.replicate 60 0) ∧
    ∀ r rest, e.log = r :: rest →
      leNat (slice 4 2 e.window) = r.seq.toNat ∧ leNat (slice 6 1 e.window) = r.kind.number.val ∧
      (r.repeatCount ≤ 255 → leNat (slice 8 1 e.window) = r.repeatCount)

/-! ## The Region Unit's commands (1.6, 8.2, 8.3) -/

/-- DEFINE REGION (R11 to R13): the checks in their order, the conflicts of R12, and the record it leaves. Its drain discard
count of 0 is the model's choice (log entry 27). -/
def Obligations.DefineRegionChecksAndDefines : Prop :=
  ∀ s : State, s.takesCommand →
    (16 ≤ s.param 0 1 → exec .defineRegion s = .next (s.ended .refusedParam)) ∧
    ∀ r : RegionId, s.param 0 1 = r.val →
      ((s.region r).state ≠ .empty → exec .defineRegion s = .next (s.ended .refusedState)) ∧
      ((s.region r).state = .empty →
        (s.param 2 5 % 4096 ≠ 0 ∨ s.param 7 5 = 0 ∨ s.param 7 5 % 4096 ≠ 0 ∨ 2 ^ 40 < s.param 2 5 + s.param 7 5 ∨
            (s.param 12 2 ≠ 512 ∧ s.param 12 2 ≠ 1024 ∧ s.param 12 2 ≠ 2048 ∧ s.param 12 2 ≠ 4096) ∨
            s.param 14 5 % 64 ≠ 0 ∨ 2 ^ 40 < s.param 14 5 + tagAreaBytes (s.param 7 5 / s.param 12 2) ∨
            s.param 19 1 = 0 ∨ 127 < s.param 19 1 ∨ 2 < s.param 23 1 ∨ 1 < s.param 24 1 ∨ 1 < s.param 25 1 →
          exec .defineRegion s = .next (s.ended .refusedParam)) ∧
        ∀ (ra : ReadAction) (mm : MergeMode) (tp : TagPolicy) (g : Region),
          s.param 2 5 % 4096 = 0 → s.param 7 5 ≠ 0 → s.param 7 5 % 4096 = 0 → s.param 2 5 + s.param 7 5 ≤ 2 ^ 40 →
          (s.param 12 2 = 512 ∨ s.param 12 2 = 1024 ∨ s.param 12 2 = 2048 ∨ s.param 12 2 = 4096) →
          s.param 14 5 % 64 = 0 → s.param 14 5 + tagAreaBytes (s.param 7 5 / s.param 12 2) ≤ 2 ^ 40 →
          1 ≤ s.param 19 1 → s.param 19 1 ≤ 127 → s.param 23 1 = ra.code → s.param 24 1 = mm.code →
          s.param 25 1 = tp.code →
          g = { Region.powerOn with
            state := .configured, label := BitVec.ofNat 8 (s.param 1 1), base := s.param 2 5, size := s.param 7 5
            blockSize := s.param 12 2, blockCount := s.param 7 5 / s.param 12 2, tagBase := s.param 14 5
            epoch := BitVec.ofNat 7 (s.param 19 1), seed := BitVec.ofNat 16 (s.param 20 2)
            checkSet := ⟨(s.param 22 1).testBit 0, (s.param 22 1).testBit 1, (s.param 22 1).testBit 2⟩
            readAction := ra, mergeMode := mm, tagPolicy := tp, frontier := s.param 7 5 / s.param 12 2
            warnThreshold := (s.region r).warnThreshold, fenceThreshold := (s.region r).fenceThreshold
            fenceEnable := (s.region r).fenceEnable, healthLocked := (s.region r).healthLocked } →
          ((overlaps g.base g.size g.tagBase g.tagBytes = true ∨
              ∃ q, q ≠ r ∧ (s.region q).state ≠ .empty ∧
                (overlaps g.base g.size (s.region q).base (s.region q).size = true ∨
                  overlaps g.base g.size (s.region q).tagBase (s.region q).tagBytes = true ∨
                  overlaps g.tagBase g.tagBytes (s.region q).base (s.region q).size = true ∨
                  overlaps g.tagBase g.tagBytes (s.region q).tagBase (s.region q).tagBytes = true ∨
                  g.label = (s.region q).label)) →
            exec .defineRegion s = .next (s.ended .refusedConflict)) ∧
          (overlaps g.base g.size g.tagBase g.tagBytes = false →
            (∀ q, q ≠ r → (s.region q).state ≠ .empty →
              overlaps g.base g.size (s.region q).base (s.region q).size = false ∧
              overlaps g.base g.size (s.region q).tagBase (s.region q).tagBytes = false ∧
              overlaps g.tagBase g.tagBytes (s.region q).base (s.region q).size = false ∧
              overlaps g.tagBase g.tagBytes (s.region q).tagBase (s.region q).tagBytes = false ∧
              g.label ≠ (s.region q).label) →
            exec .defineRegion s = .next { s.ended .doneOk with
              ru := { s.ru with regions := vset s.ru.regions r g } }))

/-- CLEAR REGION (R14): a bad index, a region not CONFIGURED, and a region that a slot in the admission queue is classified to are
refused in that order; otherwise every field takes its power-on value but the thresholds, the fence enable and the health lock. The drain
discard count's power-on value, 0, is the model's choice (log entry 27). -/
def Obligations.ClearRegionEmptiesTheRecord : Prop :=
  ∀ s : State, s.takesCommand →
    (16 ≤ s.param 0 1 → exec .clearRegion s = .next (s.ended .refusedParam)) ∧
    ∀ r : RegionId, s.param 0 1 = r.val →
      ((s.region r).state ≠ .configured → exec .clearRegion s = .next (s.ended .refusedState)) ∧
      ((s.region r).state = .configured →
        ((∃ i ∈ s.obt.admission, (s.slot i).region = some r) → exec .clearRegion s = .next (s.ended .refusedConflict)) ∧
        ((∀ i ∈ s.obt.admission, (s.slot i).region ≠ some r) →
          exec .clearRegion s = .next { s.ended .doneOk with
            ru := { s.ru with regions := vset s.ru.regions r { Region.powerOn with
              warnThreshold := (s.region r).warnThreshold, fenceThreshold := (s.region r).fenceThreshold
              fenceEnable := (s.region r).fenceEnable, healthLocked := (s.region r).healthLocked } } }))

/-- SET ACCESS (R15): a bad index or permission code, then an EMPTY region, is refused; otherwise the eight permissions are
replaced and nothing else of the record changes. -/
def Obligations.SetAccessReplacesThePermissions : Prop :=
  ∀ s : State, s.takesCommand →
    (16 ≤ s.param 0 1 ∨ (∃ k : Fin 8, 2 < s.param (1 + k.val) 1) → exec .setAccess s = .next (s.ended .refusedParam)) ∧
    ∀ (r : RegionId) (ps : Vector Permission 8), s.param 0 1 = r.val →
      (∀ k : Fin 8, s.param (1 + k.val) 1 = (vget ps k).code) →
      ((s.region r).state = .empty → exec .setAccess s = .next (s.ended .refusedState)) ∧
      ((s.region r).state ≠ .empty →
        exec .setAccess s = .next { s.ended .doneOk with
          ru := { s.ru with regions := vset s.ru.regions r { s.region r with permissions := ps } } })

/-- MAP REQUESTER (R16) sets one entry of the Requester Map to a partition or to UNASSIGNED, SET UNMAPPED POLICY (R17) the policy,
and nothing else; a value out of range is refused REFUSED_PARAM. -/
def Obligations.MapRequesterAndUnmappedPolicy : Prop :=
  (∀ s : State, s.takesCommand →
      (64 ≤ s.param 0 1 ∨ (8 ≤ s.param 1 1 ∧ s.param 1 1 ≠ 255) → exec .mapRequester s = .next (s.ended .refusedParam)) ∧
      ∀ q : Fin 64, s.param 0 1 = q.val →
        (∀ p : Fin 8, s.param 1 1 = p.val →
          exec .mapRequester s = .next { s.ended .doneOk with
            ru := { s.ru with requesterMap := vset s.ru.requesterMap q (some p) } }) ∧
        (s.param 1 1 = 255 →
          exec .mapRequester s = .next { s.ended .doneOk with
            ru := { s.ru with requesterMap := vset s.ru.requesterMap q none } })) ∧
  ∀ s : State, s.takesCommand →
    (s.param 0 1 = 0 → exec .setUnmappedPolicy s = .next { s.ended .doneOk with ru := { s.ru with unmapped := .pass } }) ∧
    (s.param 0 1 = 1 → exec .setUnmappedPolicy s = .next { s.ended .doneOk with ru := { s.ru with unmapped := .deny } }) ∧
    (1 < s.param 0 1 → exec .setUnmappedPolicy s = .next (s.ended .refusedParam))

/-- QUERY REGION (R18, R188): the record is copied to the result registers in the layout of R188, the bytes past it unchanged. That the
unassigned bits of the check set byte and of the flag byte are 0 is the model's choice (log entry 26). -/
def Obligations.QueryRegionCopiesTheRecord : Prop :=
  ∀ s : State, s.takesCommand →
    (16 ≤ s.param 0 1 → exec .queryRegion s = .next (s.ended .refusedParam)) ∧
    ∀ r : RegionId, s.param 0 1 = r.val →
      (s.region r).base < 2 ^ 40 → (s.region r).size < 2 ^ 40 → (s.region r).blockSize < 2 ^ 16 →
      (s.region r).blockCount < 2 ^ 32 → (s.region r).tagBase < 2 ^ 40 → (s.region r).tagBytes < 2 ^ 40 →
      (s.region r).frontier < 2 ^ 32 → (s.region r).errorCount < 2 ^ 16 → (s.region r).warnThreshold < 2 ^ 16 →
      (s.region r).fenceThreshold < 2 ^ 16 →
      ∃ R : Vector Byte 128,
        exec .queryRegion s = .next { s.ended .doneOk with mp := { (s.ended .doneOk).mp with results := R } } ∧
        leNat (slice 0 1 R.toList) = (match (s.region r).state with
          | .empty => 0 | .configured => 1 | .online => 2 | .formatting => 3 | .draining => 4 | .faulted => 5) ∧
        slice 1 1 R.toList = [(s.region r).label] ∧ leNat (slice 2 5 R.toList) = (s.region r).base ∧
        leNat (slice 7 5 R.toList) = (s.region r).size ∧ leNat (slice 12 2 R.toList) = (s.region r).blockSize ∧
        leNat (slice 14 4 R.toList) = (s.region r).blockCount ∧ leNat (slice 18 5 R.toList) = (s.region r).tagBase ∧
        leNat (slice 23 5 R.toList) = (s.region r).tagBytes ∧ leNat (slice 28 1 R.toList) = (s.region r).epoch.toNat ∧
        leNat (slice 29 2 R.toList) = (s.region r).seed.toNat ∧
        leNat (slice 31 1 R.toList) = (s.region r).checkSet.code ∧
        leNat (slice 32 1 R.toList) = (s.region r).readAction.code ∧
        leNat (slice 33 1 R.toList) = (s.region r).mergeMode.code ∧
        leNat (slice 34 1 R.toList) = (s.region r).tagPolicy.code ∧
        (∀ k : Fin 8, leNat (slice (35 + k.val) 1 R.toList) = (vget (s.region r).permissions k).code) ∧
        leNat (slice 43 4 R.toList) = (s.region r).frontier ∧
        leNat (slice 47 1 R.toList) = bit (s.region r).fenced + 2 * bit (s.region r).fenceEnable +
          4 * bit (s.region r).warnReported + 8 * bit (s.region r).healthLocked ∧
        leNat (slice 48 2 R.toList) = (s.region r).errorCount ∧ leNat (slice 50 2 R.toList) = (s.region r).warnThreshold ∧
        leNat (slice 52 2 R.toList) = (s.region r).fenceThreshold ∧
        ∀ k : Fin 128, 54 ≤ k.val → vget R k = vget s.mp.results k

/-- ACTIVATE (R132): a formatted region goes ONLINE; an unfinished one is FORMATTING again with a FORMAT job from its frontier,
its ID in the result registers (R119, R188), and a job alone in the queue starts. -/
def Obligations.ActivateBringsTheRegionIntoService : Prop :=
  ∀ s : State, s.takesCommand → s.work = [] →
    (16 ≤ s.param 0 1 → exec .activate s = .next (s.ended .refusedParam)) ∧
    ∀ r : RegionId, s.param 0 1 = r.val →
      ((s.region r).state ≠ .configured → exec .activate s = .next (s.ended .refusedState)) ∧
      ((s.region r).state = .configured →
        ((s.region r).blockCount ≤ (s.region r).frontier →
          exec .activate s = .next { s.ended .doneOk with
            ru := { s.ru with regions := vset s.ru.regions r { s.region r with state := .online } } }) ∧
        ((s.region r).frontier < (s.region r).blockCount →
          (4 ≤ s.su.jobs.length → exec .activate s = .next (s.ended .queueFull)) ∧
          (s.su.jobs.length < 4 →
            exec .activate s = .next (run (startNext { s.ended .doneOk with
              ru := { s.ru with regions := vset s.ru.regions r { s.region r with state := .formatting } }
              su := s.su.accept .format r (s.region r).frontier ((s.region r).blockCount - (s.region r).frontier)
                (some (s.region r).epoch)
              mp := { (s.ended .doneOk).mp with results := vset s.mp.results 0 s.su.idToGive } })))))

/-- DEACTIVATE (R133, R134): the region enters DRAINING with its jobs cancelled and the mailbox BUSY; with nothing to drain it is
CONFIGURED and DONE_OK at once. That the drain discard count of 0 (R133) stays after the drain is the model's choice (log
entry 27). -/
def Obligations.DeactivateDrainsTheRegion : Prop :=
  ∀ s : State, s.takesCommand → s.work = [] →
    (16 ≤ s.param 0 1 → exec .deactivate s = .next (s.ended .refusedParam)) ∧
    ∀ r : RegionId, s.param 0 1 = r.val →
      ((s.region r).state = .empty ∨ (s.region r).state = .configured ∨ (s.region r).state = .draining →
        exec .deactivate s = .next (s.ended .refusedState)) ∧
      ((s.region r).state = .online ∨ (s.region r).state = .formatting ∨ (s.region r).state = .faulted →
        exec .deactivate s = .next (run ((cancelJobs (fun j => j.region == r) { s.started 0x08 (.deactivate r) with
          ru := { s.ru with regions := vset s.ru.regions r { s.region r with
            state := .draining, drainPhase := some .closing, drainFlushed := false, drainDiscards := 0 } } }).push
          [.drainCheck r])) ∧
        (s.su.jobs = [] → (∀ e ∈ s.obt.entries, e.region ≠ r) → (∀ l k, (s.line l).key = some k → k.1 ≠ r) →
          exec .deactivate s = .next { s.ended .doneOk with
            ru := { s.ru with regions := vset s.ru.regions r { s.region r with
              state := .configured, drainPhase := none, drainFlushed := false, drainDiscards := 0 } } }))

/-- UNFENCE (R140) clears the fenced flag, CLEAR HEALTH (R142) the error count and warn-reported, LOCK HEALTH (R143) sets the
lock, each of the named region alone, locked or not; a bad index is refused, and UNFENCE of an EMPTY region. -/
def Obligations.UnfenceClearAndLockHealth : Prop :=
  ∀ s : State, s.takesCommand →
    (16 ≤ s.param 0 1 → exec .unfence s = .next (s.ended .refusedParam) ∧ exec .clearHealth s = .next (s.ended .refusedParam) ∧
      exec .lockHealth s = .next (s.ended .refusedParam)) ∧
    ∀ r : RegionId, s.param 0 1 = r.val →
      ((s.region r).state = .empty → exec .unfence s = .next (s.ended .refusedState)) ∧
      ((s.region r).state ≠ .empty →
        exec .unfence s = .next { s.ended .doneOk with
          ru := { s.ru with regions := vset s.ru.regions r { s.region r with fenced := false } } }) ∧
      exec .clearHealth s = .next { s.ended .doneOk with
        ru := { s.ru with regions := vset s.ru.regions r { s.region r with errorCount := 0, warnReported := false } } } ∧
      exec .lockHealth s = .next { s.ended .doneOk with
        ru := { s.ru with regions := vset s.ru.regions r { s.region r with healthLocked := true } } }

/-- SET HEALTH (R141): a bad index, a locked record and a value out of range are refused in that order; otherwise the two
thresholds and the fence enable are set. -/
def Obligations.SetHealthUnlessLocked : Prop :=
  ∀ s : State, s.takesCommand →
    (16 ≤ s.param 0 1 → exec .setHealth s = .next (s.ended .refusedParam)) ∧
    ∀ r : RegionId, s.param 0 1 = r.val →
      ((s.region r).healthLocked = true → exec .setHealth s = .next (s.ended .refusedLocked)) ∧
      ((s.region r).healthLocked = false →
        (65535 < s.param 1 4 ∨ 65535 < s.param 5 4 ∨ 1 < s.param 9 1 → exec .setHealth s = .next (s.ended .refusedParam)) ∧
        ∀ on : Bool, s.param 1 4 ≤ 65535 → s.param 5 4 ≤ 65535 → s.param 9 1 = bit on →
          exec .setHealth s = .next { s.ended .doneOk with
            ru := { s.ru with regions := vset s.ru.regions r { s.region r with
              warnThreshold := s.param 1 4, fenceThreshold := s.param 5 4, fenceEnable := on } } })

/-- A health report (R138): the count rises, saturating; the warn and fence steps are taken with the count raised. The order of
the two records is the model's (log entry 12). -/
def Obligations.HealthReportCountsWarnsAndFences : Prop :=
  ∀ (src : Source) (r : RegionId) (b : Nat) (who : Option (RequesterId × TransactionId)) (s : State) (n : Nat) (warn fence : Bool),
    (n = if (s.region r).errorCount < 65535 then (s.region r).errorCount + 1 else (s.region r).errorCount) →
    (warn = true ↔ (s.region r).warnThreshold ≠ 0 ∧ (s.region r).warnThreshold ≤ n ∧ (s.region r).warnReported = false) →
    (fence = true ↔ ((s.region r).state = .online ∨ (s.region r).state = .formatting) ∧ (s.region r).fenceEnable = true ∧
      (s.region r).fenceThreshold ≠ 0 ∧ (s.region r).fenceThreshold ≤ n ∧ (s.region r).fenced = false) →
    ∃ e : EventLog,
      e = (if warn then s.el.offer { Record.plain .healthWarn src with region := some r, block := some b, who := who } else s.el) ∧
      healthReport src r b who s = { s with
        ru := { s.ru with regions := vset s.ru.regions r { s.region r with
          errorCount := n, warnReported := (s.region r).warnReported || warn, fenced := (s.region r).fenced || fence } }
        el := if fence then e.offer { Record.plain .regionFenced src with region := some r, block := some b, who := who }
          else e }

/-! ## The Sweep Unit's commands (7.3) -/

/-- FORMAT (R116): its checks in order, and its one event of acceptance; what the jobs it cancels and the job that starts set off
is taken in the same step. The job takes its ID, and the counter moves on (R113), while the SCRUB and REBLANK jobs of the region
that it cancels still hold theirs: that order within the one event is the model's choice, which the manual leaves open (log entry
24). -/
def Obligations.FormatStartsANewEpoch : Prop :=
  ∀ s : State, s.takesCommand → s.work = [] →
    (16 ≤ s.param 0 1 → exec .format s = .next (s.ended .refusedParam)) ∧
    ∀ r : RegionId, s.param 0 1 = r.val →
      ((s.region r).state ≠ .online → exec .format s = .next (s.ended .refusedState)) ∧
      ((s.region r).state = .online →
        (4 ≤ s.su.jobs.length → exec .format s = .next (s.ended .queueFull)) ∧
        (s.su.jobs.length < 4 → ∀ e : Epoch,
          e.toNat = (if (s.region r).epoch.toNat = 127 then 1 else ((s.region r).epoch.toNat + 1) % 128) →
          exec .format s = .next (run (cancelJobs (fun j => j.region == r && j.kind != .format) { s.ended .doneOk with
            ru := { s.ru with regions := vset s.ru.regions r { s.region r with
              state := .formatting, epoch := e, frontier := 0, fenced := false, errorCount := 0, warnReported := false } }
            su := s.su.accept .format r 0 (s.region r).blockCount (some e)
            mp := { (s.ended .doneOk).mp with results := vset s.mp.results 0 s.su.idToGive } }))))

/-- SCRUB and REBLANK (R117, R118): the checks in order; behind a running job the job waits its turn; alone in the queue it starts
and joins its first block, SHARED or EXCLUSIVE (R115). A job's work on a block (R123): it fixes its epoch, a FORMAT job's own and
else the region's at the grant, and looks up the tag; a fill failure ends the work with done and errors raised. The tag handed: a
FORMAT job skips a block of its epoch, and else writes the blank tag, as a REBLANK job does unseen (R124, R127); in a WRITE_BACK
region the work ends there, in a WRITE_THROUGH one at the TAG_WRITE's completion, with an error on ERROR. A SCRUB job evaluates the
tag: BLANK ends the work, a failure is reported, with health and source SWEEP, and ends it with an error, and SOUND takes the sweep
buffer and reads the whole block in the SWEEP class (R125, R54). A response to a sweep read: OK bytes go to the sweep buffer, and
at the last read the guard is checked, CORRUPT reported and counted; ERROR posts MEMORY_READ once, and the work ends at the last
read with an error (R125). The model's choices: tags and grants reach the job as internal events of the step (log entry 3); the
freed tag's timeout value is 0 (log entry 25); between blocks the captured epoch is held as 0 (log entry 6); an integrity record
precedes the health records (log entry 12); a line takes a TAG_WRITE's completion before the job, and a TAG_WRITE precedes the
high-water write-backs (log entry 24); MEMORY_WRITE is posted before the job's own effects (log entry 12). -/
def Obligations.ScrubAndReblankAreQueued : Prop :=
  (∀ (s : State) (c : Instr) (k : JobKind), s.takesCommand → s.work = [] →
    (c = .scrub ∧ k = .scrub) ∨ (c = .reblank ∧ k = .reblank) →
    (16 ≤ s.param 0 1 → exec c s = .next (s.ended .refusedParam)) ∧
    ∀ r : RegionId, s.param 0 1 = r.val →
      ((s.region r).state ≠ .online → (k = .scrub ∨ (s.region r).state ≠ .formatting) →
        exec c s = .next (s.ended .refusedState)) ∧
      ((s.region r).state = .online ∨ (k = .reblank ∧ (s.region r).state = .formatting) →
        (s.param 5 4 = 0 ∨ (s.region r).blockCount < s.param 1 4 + s.param 5 4 →
          exec c s = .next (s.ended .refusedParam)) ∧
        (s.param 5 4 ≠ 0 → s.param 1 4 + s.param 5 4 ≤ (s.region r).blockCount →
          (4 ≤ s.su.jobs.length → exec c s = .next (s.ended .queueFull)) ∧
          (∀ j rest, s.su.jobs = j :: rest → s.su.jobs.length < 4 → j.state ≠ .queued →
            exec c s = .next { s.ended .doneOk with
              su := s.su.accept k r (s.param 1 4) (s.param 5 4) none
              mp := { (s.ended .doneOk).mp with results := vset s.mp.results 0 s.su.idToGive } }) ∧
          (s.su.jobs = [] →
            exec c s = .next (run { s.ended .doneOk with
              su := { s.su.accept k r (s.param 1 4) (s.param 5 4) none with
                jobs := [{ Job.new s.su.idToGive k r (s.param 1 4) (s.param 5 4) none with
                  state := .running, step := .waiting }] }
              obt := { s.obt with
                entries := joinEntries .sweep (if k = .scrub then .shared else .exclusive) r (s.param 1 4) s.obt.entries }
              mp := { (s.ended .doneOk).mp with results := vset s.mp.results 0 s.su.idToGive }
              work := [.grant r (s.param 1 4)] }))))) ∧
  (∀ (s : State) (j : Job) (rest : List Job), s.su.jobs = j :: rest →
    (∀ e : Epoch, (j.kind = .format → j.formatEpoch = some e) → (j.kind ≠ .format → e = (s.region j.region).epoch) →
      runTask (.beginWork .sweep) s =
        lookupTag .sweep 0 j.region j.position { s with su := { s.su with work := ⟨e, none, 0, false⟩ } }) ∧
    (∀ k, runTask (.fillFailed .sweep k) s = endBlock (.done true) s) ∧
    ∀ (k : Nat) (t blank : Tag),
      blank = ⟨0, BitVec.ofNat 16 (j.position + (s.region j.region).seed.toNat), (s.region j.region).label, true, s.su.work.epoch⟩ →
      (j.kind = .format → t.epoch = s.su.work.epoch → runTask (.handTag .sweep k t) s = endBlock .skipped s) ∧
      (j.kind = .reblank ∨ (j.kind = .format ∧ t.epoch ≠ s.su.work.epoch) →
        ((s.region j.region).tagPolicy = .writeBack →
          runTask (.handTag .sweep k t) s = endBlock (.done false) (tagUpdate .sweep 0 j.region j.position blank s)) ∧
        ((s.region j.region).tagPolicy = .writeThrough →
          runTask (.handTag .sweep k t) s = tagUpdate .sweep 0 j.region j.position blank s)) ∧
      (j.kind = .scrub → ∀ v, v = tagEvaluation (s.region j.region) s.su.work.epoch j.position t →
        (v = .blank → runTask (.handTag .sweep k t) s = endBlock (.done false) s) ∧
        (∀ kd, (v = .stale ∧ kd = .stale) ∨ (v = .misplaced ∧ kd = .misplaced) ∨ (v = .foreign ∧ kd = .foreign) →
          runTask (.handTag .sweep k t) s = endBlock (.done true) (healthReport .sweep j.region j.position none { s with
            el := s.el.offer { Record.plain kd .sweep with
              region := some j.region, block := some j.position
              tags := some ⟨t, s.su.work.epoch, BitVec.ofNat 16 (j.position + (s.region j.region).seed.toNat),
                (s.region j.region).label⟩ } })) ∧
        (v = .sound → runTask (.handTag .sweep k t) s = { s with
          obt := { s.obt with sweepBuffer := { s.obt.sweepBuffer with assigned := true } }
          su := { s.su with work := { s.su.work with tag := some t, readsOut := (s.region j.region).blockSize / 256 } }
          ma := { s.ma with sweepQueue := s.ma.sweepQueue ++ (List.range ((s.region j.region).blockSize / 256)).map fun n =>
            { kind := .dataRead, cls := .sweep
              address := (s.region j.region).base + j.position * (s.region j.region).blockSize + 256 * n, length := 256
              data := [], enables := [], issuer := .sweepRead (256 * n)
              key := ⟨some j.region, some j.position, none, none⟩, inReset := false } } }))) ∧
  (∀ (s u : State) (t : DownTagId) (q : Request) (ok : Bool) (data : List Byte) (n : Nat) (j : Job) (rest : List Job),
    s.pins.porst = false → (s.downTag t).state = .inFlight → (s.downTag t).request = some q → q.issuer = .sweepRead n →
    q.kind = .dataRead → s.su.jobs = j :: rest → (ok = true → data.length = q.length) →
    u = { s with ma := { s.ma with tags := vset s.ma.tags t DownTag.powerOn } } →
    (ok = true → s.su.work.failed = false → ∀ bytes : List Byte, bytes = overlay n data s.obt.sweepBuffer.bytes →
      (s.su.work.readsOut ≠ 1 → exec (.downstreamResponse t ok data) s = .next (run { u with
        obt := { s.obt with sweepBuffer := { s.obt.sweepBuffer with bytes := bytes } }
        su := { s.su with work := { s.su.work with readsOut := s.su.work.readsOut - 1 } } })) ∧
      ∀ tg, s.su.work.readsOut = 1 → s.su.work.tag = some tg →
        (crc (bytes.take (s.region j.region).blockSize) = tg.guard →
          exec (.downstreamResponse t ok data) s = .next (run (endBlock (.done false) { u with
            obt := { s.obt with sweepBuffer := { s.obt.sweepBuffer with bytes := bytes } }
            su := { s.su with work := { s.su.work with readsOut := 0 } } }))) ∧
        (crc (bytes.take (s.region j.region).blockSize) ≠ tg.guard →
          exec (.downstreamResponse t ok data) s =
            .next (run (endBlock (.done true) (healthReport .sweep j.region j.position none { u with
              obt := { s.obt with sweepBuffer := { s.obt.sweepBuffer with bytes := bytes } }
              su := { s.su with work := { s.su.work with readsOut := 0 } }
              el := s.el.offer { Record.plain .corrupt .sweep with
                region := some j.region, block := some j.position
                expectedGuard := some (crc (bytes.take (s.region j.region).blockSize))
                tags := some ⟨tg, s.su.work.epoch, BitVec.ofNat 16 (j.position + (s.region j.region).seed.toNat),
                  (s.region j.region).label⟩ } }))))) ∧
    (ok = false ∨ s.su.work.failed = true → ∀ v : State,
      v = { u with
        su := { s.su with work := { s.su.work with readsOut := s.su.work.readsOut - 1, failed := true } }
        el := if s.su.work.failed then s.el else s.el.offer { Record.plain .memoryRead .sweep with
          region := some j.region, block := some j.position } } →
      (s.su.work.readsOut ≠ 1 → exec (.downstreamResponse t ok data) s = .next (run v)) ∧
      (s.su.work.readsOut = 1 → exec (.downstreamResponse t ok data) s = .next (run (endBlock (.done true) v))))) ∧
  ∀ (s u v : State) (t : DownTagId) (q : Request) (ok : Bool) (data : List Byte) (l : LineId) (k : Nat) (x : Line),
    s.pins.porst = false → (s.downTag t).state = .inFlight → (s.downTag t).request = some q →
    q.issuer = .tagWrite (some l) .sweep k → q.kind = .tagWrite → x = s.line l →
    u = { s with ma := { s.ma with tags := vset s.ma.tags t DownTag.powerOn } } →
    (ok = true → ∀ r line, x.key = some (r, line) → x.state = .dirty → x.through = 1 → x.throughFault = false →
      (∀ f ∈ s.tc.flushes, (r, line) ∉ f.keys ∧ f.keys ≠ []) →
      v = { u with tc := { s.tc with lines := vset s.tc.lines l { x with state := .clean, attempts := 0, through := 0 } } } →
      exec (.downstreamResponse t ok data) s = .next (run (endBlock (.done false) v))) ∧
    (ok = true → ¬ (x.state = .dirty ∧ x.through = 1 ∧ x.throughFault = false) →
      v = highWater (demandWriteback l { u with
        tc := { s.tc with lines := vset s.tc.lines l { x with through := x.through - 1 } } }) →
      exec (.downstreamResponse t ok data) s = .next (run (endBlock (.done false) v))) ∧
    (ok = false →
      v = highWater (demandWriteback l { u with
        tc := { s.tc with lines := vset s.tc.lines l { x with through := x.through - 1, throughFault := true } } }) →
      exec (.downstreamResponse t ok data) s = .next (run (endBlock (.done true) { v with
        el := s.el.offer { Record.plain .memoryWrite .tagCache with
          region := q.key.region, block := q.key.block, tagLine := q.key.tagLine } })))

/-- Job IDs (R113): a job takes the counter's value, or the next one that no queued job holds, reached by steps of one over held IDs
alone, 255 followed by 1; the job joins the tail (R114); the counter moves on by one from the ID given, and over held IDs alone to
the next that no job of the new queue holds. -/
def Obligations.JobsTakeTheNextFreeId : Prop :=
  ∀ (u : SweepUnit) (k : JobKind) (r : RegionId) (first count : Nat) (fe : Option Epoch), u.jobs.length ≤ 4 → u.nextId ≠ 0 →
    (∃ n, u.idToGive = idSteps n u.nextId ∧ ∀ m, m < n → ∃ j ∈ u.jobs, j.id = idSteps m u.nextId) ∧
    (u.jobs.all (fun j => j.id != u.nextId) = true → u.idToGive = u.nextId) ∧
    u.idToGive ≠ 0 ∧ (∀ j ∈ u.jobs, j.id ≠ u.idToGive) ∧
    (u.accept k r first count fe).jobs = u.jobs ++ [
      { id := u.idToGive, kind := k, region := r, first := first, count := count, formatEpoch := fe, position := first
        state := .queued, step := .none, cancelRequested := false, done := 0, skipped := 0, errors := 0 }] ∧
    (∃ n, (u.accept k r first count fe).nextId = idSteps (n + 1) u.idToGive ∧
      ∀ m, m < n → ∃ j ∈ (u.accept k r first count fe).jobs, j.id = idSteps (m + 1) u.idToGive) ∧
    (u.accept k r first count fe).nextId ≠ 0 ∧
    (∀ j ∈ (u.accept k r first count fe).jobs, j.id ≠ (u.accept k r first count fe).nextId) ∧
    (u.jobs = [] → (u.accept k r first count fe).nextId.toNat = if u.nextId.toNat = 255 then 1 else u.nextId.toNat + 1)

/-- CANCEL SWEEP (R120, R129): an unknown ID and a FORMAT job are refused; a job is cancelled by its state, its SWEEP_CANCELLED
record posted when it ends. -/
def Obligations.CancelSweepEndsTheJobByItsState : Prop :=
  ∀ s : State, s.takesCommand → s.work = [] →
    (s.param 0 1 = 0 ∨ (∀ j ∈ s.su.jobs, j.id.toNat ≠ s.param 0 1) →
      exec .cancelSweep s = .next (s.ended .refusedParam)) ∧
    ∀ (front back : List Job) (j : Job), s.su.jobs = front ++ j :: back → s.param 0 1 ≠ 0 → j.id.toNat = s.param 0 1 →
      (∀ k ∈ front ++ back, k.id ≠ j.id) →
      (j.kind = .format → exec .cancelSweep s = .next (s.ended .refusedState)) ∧
      (j.kind ≠ .format →
        exec .cancelSweep s = .next (run (cancelJobs (fun k => k.id == j.id) (s.ended .doneOk))) ∧
        (∀ h rest, front = h :: rest → h.state ≠ .queued → j.state = .queued →
          exec .cancelSweep s = .next { s.ended .doneOk with
            su := { s.su with jobs := front ++ back }, el := s.el.offer (jobRecord .sweepCancelled j none) }) ∧
        (front = [] → j.state = .running → j.step = .working →
          exec .cancelSweep s = .next { s.ended .doneOk with
            su := { s.su with jobs := { j with cancelRequested := true } :: back } }) ∧
        (front = [] → back = [] → j.state = .running → j.step = .pacing →
          exec .cancelSweep s = .next { s.ended .doneOk with
            su := { s.su with jobs := [], pacingTimer := none }, el := s.el.offer (jobRecord .sweepCancelled j none) }) ∧
        (front = [] → back = [] → j.state = .finishing →
          exec .cancelSweep s = .next { s.ended .doneOk with
            su := { s.su with jobs := [] }, el := s.el.offer (jobRecord .sweepCancelled j none)
            tc := { s.tc with flushes := s.tc.flushes.filter fun f => f.maker != .job } }) ∧
        (front = [] → back = [] → j.state = .running → j.step = .waiting →
          exec .cancelSweep s = .next (run { leaveBlocks .sweep (s.ended .doneOk) with
            su := { s.su with jobs := [] }, el := s.el.offer (jobRecord .sweepCancelled j none) })))

/-- SET PACING (R121), SET TIMEOUT (R167) and SET SWEEP SHARE (R168): the value in range is set, and no running timer, no granted
tag and no counter changes; a value out of range is refused. -/
def Obligations.SetPacingTimeoutAndShare : Prop :=
  ∀ s : State, s.takesCommand →
    (s.param 0 4 ≤ 65535 → exec .setPacing s = .next { s.ended .doneOk with su := { s.su with pacing := s.param 0 4 } }) ∧
    (65535 < s.param 0 4 → exec .setPacing s = .next (s.ended .refusedParam)) ∧
    (1 ≤ s.param 0 2 → s.param 0 2 ≤ 1023 →
      exec .setTimeout s = .next { s.ended .doneOk with ma := { s.ma with timeout := s.param 0 2 } }) ∧
    (s.param 0 2 = 0 ∨ 1023 < s.param 0 2 → exec .setTimeout s = .next (s.ended .refusedParam)) ∧
    (1 ≤ s.param 0 1 → s.param 0 1 ≤ 16 →
      exec .setSweepShare s = .next { s.ended .doneOk with ma := { s.ma with share := s.param 0 1 } }) ∧
    (s.param 0 1 = 0 ∨ 16 < s.param 0 1 → exec .setSweepShare s = .next (s.ended .refusedParam))

/-- QUERY SWEEP (R122, R188): the pacing interval, the counter, the job count, and a 28-byte group for each job in queue order; the
groups beyond the jobs are zeros and the bytes past the layout unchanged. That bits 7 to 5 of a group's state byte are 0 is the
model's choice (log entry 26). -/
def Obligations.QuerySweepShowsTheQueue : Prop :=
  ∀ s : State, s.takesCommand → s.su.pacing < 2 ^ 16 → s.su.jobs.length ≤ 4 →
    ∃ R : Vector Byte 128,
      exec .querySweep s = .next { s.ended .doneOk with mp := { (s.ended .doneOk).mp with results := R } } ∧
      leNat (slice 0 2 R.toList) = s.su.pacing ∧ slice 2 1 R.toList = [s.su.nextId] ∧
      leNat (slice 3 1 R.toList) = s.su.jobs.length ∧
      (∀ (k : Nat) (j : Job), s.su.jobs[k]? = some j →
        slice (4 + 28 * k) 1 R.toList = [j.id] ∧
        leNat (slice (5 + 28 * k) 1 R.toList) = (match j.kind with | .format => 0 | .scrub => 1 | .reblank => 2) ∧
        leNat (slice (6 + 28 * k) 1 R.toList) = j.region.val ∧
        (j.first < 2 ^ 32 → leNat (slice (7 + 28 * k) 4 R.toList) = j.first) ∧
        (j.count < 2 ^ 32 → leNat (slice (11 + 28 * k) 4 R.toList) = j.count) ∧
        (j.position < 2 ^ 32 → leNat (slice (15 + 28 * k) 4 R.toList) = j.position) ∧
        leNat (slice (19 + 28 * k) 1 R.toList) =
          (match j.state with | .queued => 0 | .running => 1 | .finishing => 2) +
          4 * (match j.step with | .none => 0 | .waiting => 1 | .working => 2 | .pacing => 3) +
          16 * bit j.cancelRequested ∧
        (j.done < 2 ^ 32 → leNat (slice (20 + 28 * k) 4 R.toList) = j.done) ∧
        (j.skipped < 2 ^ 32 → leNat (slice (24 + 28 * k) 4 R.toList) = j.skipped) ∧
        (j.errors < 2 ^ 32 → leNat (slice (28 + 28 * k) 4 R.toList) = j.errors)) ∧
      (∀ k : Fin 128, 4 + 28 * s.su.jobs.length ≤ k.val → k.val < 116 → vget R k = 0) ∧
      ∀ k : Fin 128, 116 ≤ k.val → vget R k = vget s.mp.results k

/-- PACING_TIMER_EXPIRY (R126): the running job joins the block at its position and is WAITING; without a running timer nothing
(log entry 8). The end of a block's work (R123, R124): the position moves on, done or skipped and, on an error, errors rise by one;
a FORMAT job's region takes the frontier i + 1, and FORMATTING becomes ONLINE at N; the sweep releases the block, and the next
action follows: a job with cancel requested ends SWEEP_CANCELLED (R129); a SCRUB job with blocks left starts the pacing timer, or
at interval 0 joins the next block, as FORMAT and REBLANK jobs do (R126); after the last block a SCRUB job ends SWEEP_DONE, and a
FORMAT or REBLANK job is FINISHING and makes its end flush of the region's DIRTY, CLEANING and STRANDED lines, ending SWEEP_DONE at
once when there is none and else when the last key leaves the request, with the discarded count (R128). The record carries the
job's ID, kind, final position and counters, and the next job starts (R115). The model's choices: the release's effects in the Tag
Cache, discards and high-water write-backs, come before the next action and so before the end flush (log entry 24); the end flush's
write-backs are issued in ascending line number (log entry 11); between blocks the captured epoch is held as 0 (log entry 6). -/
def Obligations.PacingExpiryJoinsTheNextBlock : Prop :=
  (∀ s : State,
    (s.su.pacingTimer = none → exec .pacingTimerExpiry s = .next s) ∧
    ∀ n j rest, s.su.pacingTimer = some n → s.su.jobs = j :: rest →
      exec .pacingTimerExpiry s = .next (run { s with
        su := { s.su with pacingTimer := none, jobs := { j with step := .waiting } :: rest }
        obt := { s.obt with
          entries := joinEntries .sweep (if j.kind = .scrub then .shared else .exclusive) j.region j.position s.obt.entries }
        work := s.work ++ [.grant j.region j.position] })) ∧
  (∀ (s : State) (j j' : Job) (rest : List Job) (e : BlockEnd) (gs : Vector Region 16), s.su.jobs = j :: rest →
    (e = .skipped → j' = { j with position := j.position + 1, skipped := j.skipped + 1 }) →
    (∀ err, e = .done err → j' = { j with
      position := j.position + 1, done := j.done + 1, errors := j.errors + if err then 1 else 0 }) →
    (j.kind ≠ .format → gs = s.ru.regions) →
    (j.kind = .format → gs = vset s.ru.regions j.region { s.region j.region with
      frontier := j.position + 1
      state := if (s.region j.region).state = .formatting ∧ j.position + 1 = (s.region j.region).blockCount then .online
        else (s.region j.region).state }) →
    endBlock e s = nextAction (releaseOp .sweep { s with
      su := { s.su with jobs := j' :: rest, work := BlockWork.idle }, ru := { s.ru with regions := gs } })) ∧
  ∀ (s : State) (j : Job) (rest : List Job), s.su.jobs = j :: rest →
    (j.cancelRequested = true → nextAction s = endHeadJob .sweepCancelled none s) ∧
    (j.cancelRequested = false → j.position < j.first + j.count →
      (j.kind = .scrub → s.su.pacing ≠ 0 →
        nextAction s = { s with su := { s.su with
          jobs := { j with step := .pacing } :: rest, pacingTimer := some s.su.pacing } }) ∧
      (j.kind ≠ .scrub ∨ s.su.pacing = 0 →
        nextAction s = { s with
          su := { s.su with jobs := { j with step := .waiting } :: rest }
          obt := { s.obt with
            entries := joinEntries .sweep (if j.kind = .scrub then .shared else .exclusive) j.region j.position s.obt.entries }
          work := s.work ++ [.grant j.region j.position] })) ∧
    (j.cancelRequested = false → j.first + j.count ≤ j.position →
      (j.kind = .scrub → nextAction s = endHeadJob .sweepDone none s) ∧
      (j.kind ≠ .scrub → ∀ (f : State) (ls : List LineId),
        f = { s with su := { s.su with jobs := { j with state := .finishing, step := .none } :: rest } } →
        ls = (allLines.filter fun l =>
          ((s.line l).state == .dirty || (s.line l).state == .cleaning || (s.line l).state == .stranded) &&
            (match (s.line l).key with
              | some k => k.1 == j.region
              | none => false)) →
        (ls = [] → nextAction s = endHeadJob .sweepDone (some 0) f) ∧
        (ls ≠ [] → nextAction s = ls.foldl (fun y l => demandWriteback l y) { f with tc := { s.tc with
          flushes := s.tc.flushes ++ [⟨.job, some j.region, ls.filterMap fun l => (s.line l).key, 0⟩] } }))) ∧
    (∀ (line d : Nat) (lost : Bool) (scope : Option RegionId), s.tc.flushes = [⟨.job, scope, [(j.region, line)], d⟩] →
      leaveFlushes (j.region, line) lost s =
        endHeadJob .sweepDone (some (d + if lost then 1 else 0)) { s with tc := { s.tc with flushes := [] } }) ∧
    ∀ (kd : RecordKind) (d : Option Nat) (el : EventLog),
      el = s.el.offer { Record.plain kd .sweep with
        region := some j.region, block := some j.position, job := some ⟨j.id, j.kind, j.done, j.skipped, j.errors⟩
        discarded := d } →
      (rest = [] → endHeadJob kd d s = { s with su := { s.su with jobs := [] }, el := el }) ∧
      ∀ k more, rest = k :: more → k.state = .queued →
        endHeadJob kd d s = { s with
          su := { s.su with jobs := { k with state := .running, position := k.first, step := .waiting } :: more }
          obt := { s.obt with
            entries := joinEntries .sweep (if k.kind = .scrub then .shared else .exclusive) k.region k.first s.obt.entries }
          work := s.work ++ [.grant k.region k.first], el := el }

/-! ## Resets (9.6, 12.3, 12.5) -/

/-- FRST# (R155, R156, R57): the release changes the pin alone; the assertion keeps every region's definition and every programmed
value and register; with no ACTIVE, CLASSIFIED or ABANDONED slot it frees the ADMITTING and RESPONDING slots, takes them from their
queues, marks the PASSING slots ABANDONED with their requests left to run, and changes nothing else. An ACTIVE slot, the only one not
FREE: one that waits for a block leaves its waiter lists and holder sets and is FREE; a committed write that holds its blocks is
ABANDONED and runs on; a read or uncommitted write that holds its blocks is ABANDONED and leaves the buffer wait FIFO, and with no
read outstanding it releases and is FREE. -/
def Obligations.FabricResetAbandonsTheSlots : Prop :=
  (∀ s : State, exec .frstReleased s = .next { s with pins := { s.pins with frst := false } }) ∧
  (∀ s : State, ∃ t : State, exec .frstAsserted s = .next t ∧ t.pins = { s.pins with frst := true } ∧
    (∀ r, (t.region r).sameDefinition (s.region r)) ∧
    t.ru.requesterMap = s.ru.requesterMap ∧ t.ru.unmapped = s.ru.unmapped ∧ t.out = s.out ∧
    t.el.logMask = s.el.logMask ∧ t.el.alertMask = s.el.alertMask ∧ t.su.pacing = s.su.pacing ∧
    t.ma.timeout = s.ma.timeout ∧ t.ma.share = s.ma.share ∧ t.mp.params = s.mp.params ∧ t.mp.results = s.mp.results ∧
    t.mp.overrun = s.mp.overrun ∧ t.mp.offset = s.mp.offset ∧ t.mp.phase = s.mp.phase) ∧
  (∀ s : State, s.work = [] → (∀ d, s.mp.long ≠ some (.resetEngine d)) →
    (∀ i, (s.slot i).state = .free ∧ s.slot i = Slot.powerOn ∨ (s.slot i).state = .admitting ∨
      (s.slot i).state = .responding ∨ (s.slot i).state = .passing) →
    exec .frstAsserted s = .next { s with
      pins := { s.pins with frst := true }
      tu := {
        slots := s.tu.slots.map fun sl =>
          if sl.state = .passing then { sl with state := .abandoned, abandoned := true } else Slot.powerOn
        responses := s.tu.responses.filter fun i => (s.slot i).state != .responding }
      obt := { s.obt with admission := s.obt.admission.filter fun i => (s.slot i).state != .admitting } }) ∧
  ∀ (s : State) (i : SlotId) (r : RegionId), s.work = [] → (∀ d, s.mp.long ≠ some (.resetEngine d)) →
    (s.slot i).state = .active → (s.slot i).region = some r → (∀ j, j ≠ i → (s.slot j).state = .free) →
    ((∃ p ∈ (s.slot i).parts, ∀ e ∈ s.obt.entries, e.region = r → e.block = p.block → ∀ h ∈ e.holders, h.1 ≠ .slot i) →
      exec .frstAsserted s = .next (run (leaveBlocks (.slot i) { s with
        pins := { s.pins with frst := true }
        tu := { s.tu with slots := vset s.tu.slots i Slot.powerOn } }))) ∧
    ((∀ p ∈ (s.slot i).parts, ∃ e, s.obt.entry r p.block = some e ∧ ∃ h ∈ e.holders, h.1 = .slot i) →
      ((s.slot i).committed = true →
        exec .frstAsserted s = .next { s with
          pins := { s.pins with frst := true }
          tu := { s.tu with slots := vset s.tu.slots i { s.slot i with state := .abandoned, abandoned := true } } }) ∧
      ((s.slot i).committed = false →
        ((∃ p ∈ (s.slot i).parts, p.readsOut ≠ 0) →
          exec .frstAsserted s = .next { s with
            pins := { s.pins with frst := true }
            tu := { s.tu with slots := vset s.tu.slots i { s.slot i with state := .abandoned, abandoned := true } }
            obt := { s.obt with bufferWait := s.obt.bufferWait.filter fun w => w.1 != i } }) ∧
        ((∀ p ∈ (s.slot i).parts, p.readsOut = 0) →
          exec .frstAsserted s = .next (run (freeSlot i (releaseOp (.slot i) { s with
            pins := { s.pins with frst := true }
            tu := { s.tu with slots := vset s.tu.slots i { s.slot i with state := .abandoned, abandoned := true } }
            obt := { s.obt with bufferWait := s.obt.bufferWait.filter fun w => w.1 != i } }))))))

/-- PORST# (R158, R190): asserted, the work in every unit is lost and ALERT# is not driven; released, every unit takes its power-on
values and the straps are sampled. Which part happens at which edge is the model's reading (log entry 15), and the values at power-on
that the manual does not give are its choice (log entries 6, 25, 27). -/
def Obligations.PowerOnResetRestoresTheUnits : Prop :=
  ∀ s : State,
    exec .porstAsserted s = .next { s with
      tu := .powerOn, obt := .powerOn, tc := .powerOn, su := .powerOn, ma := .powerOn, el := { s.el with alert := false }
      mp := { s.mp with phase := .idle, window := none, long := none }, pins := { s.pins with porst := true }, work := [] } ∧
    ∀ addr : BitVec 2,
      (s.pins.porst = true →
        exec (.porstReleased addr) s = .next { s with
          tu := State.reset.tu, ru := State.reset.ru, obt := State.reset.obt, tc := State.reset.tc, su := State.reset.su
          ma := State.reset.ma, el := State.reset.el, mp := { State.reset.mp with strap := addr }
          pins := { s.pins with porst := false }, work := [] }) ∧
      (s.pins.porst = false → exec (.porstReleased addr) s = .next s)

/-- RESET ENGINE (R186, R144, R157, R169, R170, R185): accepted at hand-over; it keeps every region's definition, the maps, the
programmed values, the masks, the parameter and result registers and the overrun flag; on an idle part whose regions are EMPTY or
CONFIGURED it ends DONE_OK at once. The command ends at the event its last part ends, and not while a marked slot is not FREE, a
job is queued, a region drains, or a marked request is queued or IN_FLIGHT. The acceptance: the mailbox is BUSY; each slot not FREE
and each request queued or IN_FLIGHT then is marked, a reading of what the command waits for (log entry 14, DEDUCED); each region
in service is DRAINING; every job is cancelled; every slot is abandoned; and each drain looks at its entry count. In full where no
operation is released at the acceptance and no drain moves on: ADMITTING and RESPONDING slots are FREE and off their queues,
PASSING and ACTIVE ones ABANDONED, uncommitted ones off the buffer wait FIFO, queued jobs cancelled with their records and a
working one asked to stop. An ACTIVE slot, the only one not FREE: one that waits for a block leaves its places and is FREE; an
uncommitted one that holds its blocks with no read outstanding releases and is FREE. The order of these effects, ascending slots
and regions and jobs in queue order among them, is the model's choice (log entries 12, 24). -/
def Obligations.ResetEngineKeepsTheSettings : Prop :=
  (∀ s : State, s.takesCommand → ∃ t : State, exec .resetEngine s = .next t ∧
    (∀ r, (t.region r).sameDefinition (s.region r)) ∧
    t.ru.requesterMap = s.ru.requesterMap ∧ t.ru.unmapped = s.ru.unmapped ∧ t.su.pacing = s.su.pacing ∧
    t.su.nextId = s.su.nextId ∧ t.ma.timeout = s.ma.timeout ∧ t.ma.share = s.ma.share ∧
    t.ma.shareCounter = s.ma.shareCounter ∧ t.el.logMask = s.el.logMask ∧ t.el.alertMask = s.el.alertMask ∧
    t.mp.params = s.mp.params ∧ t.mp.results = s.mp.results ∧ t.mp.overrun = s.mp.overrun ∧ t.pins = s.pins) ∧
  (∀ s : State, s.takesCommand → s.work = [] → s.tu = .powerOn → s.su.jobs = [] → s.ma.tagQueue = [] → s.ma.workQueue = [] →
    s.ma.sweepQueue = [] → (∀ t, s.downTag t = DownTag.powerOn) →
    (∀ r, (s.region r).state = .empty ∨ (s.region r).state = .configured) →
    exec .resetEngine s = .next (s.ended .doneOk)) ∧
  (∀ (s : State) (d : Bool), s.mp.long = some (.resetEngine d) →
    ((∀ i, (s.slot i).inReset = false) → s.su.jobs = [] → (∀ r, (s.region r).state ≠ .draining) →
      (∀ q ∈ s.ma.tagQueue ++ s.ma.workQueue ++ s.ma.sweepQueue, q.inReset = false) →
      (∀ t q, (s.downTag t).state = .inFlight → (s.downTag t).request = some q → q.inReset = false) →
      endReset s = finishCommand (if d then .donePartial else .doneOk) s) ∧
    ((∃ i, (s.slot i).inReset = true) ∨ s.su.jobs ≠ [] ∨ (∃ r, (s.region r).state = .draining) ∨
        (∃ q ∈ s.ma.tagQueue ++ s.ma.workQueue ++ s.ma.sweepQueue, q.inReset = true) ∨
        (∃ t q, (s.downTag t).state = .inFlight ∧ (s.downTag t).request = some q ∧ q.inReset = true) →
      endReset s = s)) ∧
  ∀ s A : State, s.takesCommand →
    A = { s.started 0x19 (.resetEngine false) with
      tu := { s.tu with slots := s.tu.slots.map fun sl => { sl with inReset := sl.state != .free } }
      ru := { s.ru with regions := s.ru.regions.map fun g =>
        if g.state = .online ∨ g.state = .formatting ∨ g.state = .faulted then
          { g with state := .draining, drainPhase := some .closing, drainFlushed := false, drainDiscards := 0 }
        else g }
      ma := { s.ma with
        tagQueue := s.ma.tagQueue.map fun q => { q with inReset := true }
        workQueue := s.ma.workQueue.map fun q => { q with inReset := true }
        sweepQueue := s.ma.sweepQueue.map fun q => { q with inReset := true }
        tags := s.ma.tags.map fun t =>
          { t with request := t.request.map fun q => { q with inReset := t.state == .inFlight } } } } →
    exec .resetEngine s = .next (run (checkDrains (abandonAll (cancelJobs (fun _ => true) A)))) ∧
    (∀ u : State, checkDrains u = { u with
      work := u.work ++ ((List.finRange 16).filter fun r => (u.region r).state == .draining).map Task.drainCheck }) ∧
    (∀ front back, s.work = [] → s.su.jobs = front ++ back →
      (front = [] ∨ ∃ j, front = [j] ∧ j.state = .running ∧ j.step = .working) → (∀ j ∈ back, j.state = .queued) →
      (∀ r, (s.region r).state ≠ .empty → (s.region r).state ≠ .configured → ∃ e ∈ s.obt.entries, e.region = r) →
      (∀ i, (s.slot i).state ≠ .classified) →
      (∀ i, (s.slot i).state = .active →
        (∃ r, (s.slot i).region = some r ∧
          ∀ p ∈ (s.slot i).parts, ∃ e, s.obt.entry r p.block = some e ∧ ∃ h ∈ e.holders, h.1 = .slot i) ∧
        ((s.slot i).committed = true ∨ ∃ p ∈ (s.slot i).parts, p.readsOut ≠ 0)) →
      exec .resetEngine s = .next (endReset { A with
        tu := {
          slots := A.tu.slots.map fun sl => match sl.state with
            | .admitting | .responding => Slot.powerOn
            | .active | .passing => { sl with state := .abandoned, abandoned := true }
            | .free | .classified | .abandoned => sl
          responses := s.tu.responses.filter fun i => (s.slot i).state != .responding }
        obt := { s.obt with
          admission := s.obt.admission.filter fun i => (s.slot i).state != .admitting
          bufferWait := s.obt.bufferWait.filter fun w => (s.slot w.1).state != .active || (s.slot w.1).committed }
        su := { s.su with jobs := front.map fun j => { j with cancelRequested := true } }
        el := back.foldl (fun e j => e.offer (jobRecord .sweepCancelled j none)) s.el })) ∧
    ∀ (i : SlotId) (r : RegionId) (sl : Slot), sl = { s.slot i with state := .abandoned, abandoned := true, inReset := true } →
      s.su.jobs = [] → (s.slot i).state = .active → (s.slot i).region = some r → (∀ j, j ≠ i → (s.slot j).state = .free) →
      ((∃ p ∈ (s.slot i).parts, ∀ e ∈ s.obt.entries, e.region = r → e.block = p.block → ∀ h ∈ e.holders, h.1 ≠ .slot i) →
        exec .resetEngine s = .next (run (checkDrains (leaveBlocks (.slot i) { A with
          tu := { A.tu with slots := vset A.tu.slots i Slot.powerOn } })))) ∧
      ((∀ p ∈ (s.slot i).parts, ∃ e, s.obt.entry r p.block = some e ∧ ∃ h ∈ e.holders, h.1 = .slot i) →
        (s.slot i).committed = false → (∀ p ∈ (s.slot i).parts, p.readsOut = 0) →
        exec .resetEngine s = .next (run (checkDrains (freeSlot i (releaseOp (.slot i) { A with
          tu := { A.tu with slots := vset A.tu.slots i sl }
          obt := { A.obt with bufferWait := A.obt.bufferWait.filter fun w => w.1 != i } })))))

/-! ## What every step keeps -/

/-- Law 11, the alert condition, Law 1 and, of Law 2, distinct keys, no empty entry and at most 31 upstream entries, the tags', jobs'
and ranges' laws, the mailbox law, the law of PORST# and the disjointness of regions hold at reset. The model's choices in them are
log entries 9, 15 and 25. -/
def Obligations.LawsHoldAtReset : Prop :=
  logLaw State.reset ∧ alertLaw State.reset ∧ entriesLaw State.reset ∧ upstreamLaw State.reset ∧ tagsLaw State.reset ∧
    jobsLaw State.reset ∧ rangesLaw State.reset ∧ longLaw State.reset ∧ heldLaw State.reset ∧ regionsDisjoint State.reset

/-- Law 11 is kept by every step (R173, R174, R175), and ALERT# stays at its condition (R176). -/
def Obligations.EveryStepKeepsTheLogLaws : Prop :=
  (∀ s t : State, logLaw s → step s = .next t → logLaw t) ∧
  ∀ s t : State, alertLaw s → step s = .next t → alertLaw t

/-- Kept by every step: Law 1, an exclusive holder alone (R37); and of Law 2 (R36), with R35, that the block keys are distinct, no
entry is empty, and at most 31 entries are upstream ones (R41). That the table holds at most 32 entries is not stated here. -/
def Obligations.EveryStepKeepsTheOpenBlockLaws : Prop :=
  ∀ s t : State, entriesLaw s → upstreamLaw s → step s = .next t → entriesLaw t ∧ upstreamLaw t

/-- Every downstream tag's fields stay in agreement with its state (R160, R163, R164), a FREE tag's timeout value held as 0 (the
model's choice, log entry 25); at most four jobs stay queued, with
distinct IDs 1 to 255 (R113), and the programmed values stay in range (R121, R162, R167, R168). -/
def Obligations.EveryStepKeepsTagsJobsAndRanges : Prop :=
  (∀ s t : State, tagsLaw s → step s = .next t → tagsLaw t) ∧
  ∀ s t : State, jobsLaw s → rangesLaw s → step s = .next t → jobsLaw t ∧ rangesLaw t

/-- Between steps the mailbox is BUSY exactly while a long command works (R182). For other commands this rests on the model's choice
that hand-over and acceptance are one step (log entry 9), where R181 has the mailbox BUSY before the owner's acceptance. -/
def Obligations.EveryStepKeepsBusyForLongCommands : Prop :=
  ∀ s t : State, longLaw s → step s = .next t → longLaw t

/-- While PORST# is asserted the Transaction Unit, the Open Block Table, the Tag Cache, the Sweep Unit and the Memory Arbiter stay at
their power-on values, ALERT# stays released, and no transfer or long command is in progress, over every step (R158, R190). That
they are so between the two edges of PORST# is the model's reading (log entry 15). Nothing is said of the Region Unit, the log's
records and masks, or the mailbox and the registers. -/
def Obligations.EveryStepKeepsThePartHeldInReset : Prop :=
  ∀ s t : State, heldLaw s → step s = .next t → heldLaw t

/-- No two defined regions overlap or share a label, over every step (R12). -/
def Obligations.EveryStepKeepsRegionsDisjoint : Prop :=
  ∀ s t : State, regionsDisjoint s → step s = .next t → regionsDisjoint t

/-- A health lock and what it freezes outlive every command but the release of PORST#. R143 says that a lock lasts until the next
power-on reset; that the assertion of PORST# leaves the locked thresholds, enable and lock as they were, and its release alone ends
them, is the model's reading (log entry 15, DEDUCED). -/
def Obligations.HealthLockLastsUntilPowerOnReset : Prop :=
  ∀ (s t : State) (r : RegionId), (s.region r).healthLocked = true → step s = .next t →
    (∀ addr rest, s.pending ≠ .porstReleased addr :: rest) → (t.region r).lockedPart = (s.region r).lockedPart
end

