-- ==== Sys2Proof/Laws/State.lean ====
section
/-! SUPPORT. One lemma a field for each setter of the state, and for the table updates built on them, so that no proof unfolds a
record update. -/

namespace Sys2Proof.Machine

/-! ## Fixed tables -/

/-- Reading the entry just written. -/
@[simp] theorem vget_vset_same {α : Type} {n : Nat} (v : Vector α n) (i : Fin n) (x : α) : vget (vset v i x) i = x := by
  simp [vget, vset]

/-- Reading another entry than the one written. -/
theorem vget_vset_ne {α : Type} {n : Nat} (v : Vector α n) {i j : Fin n} (h : i ≠ j) (x : α) :
    vget (vset v i x) j = vget v j := by
  simp only [vget, vset, Vector.getElem_set]
  rw [if_neg fun e => h (Fin.ext e)]

/-- Reading any entry of a written table. -/
theorem vget_vset {α : Type} {n : Nat} (v : Vector α n) (i j : Fin n) (x : α) :
    vget (vset v i x) j = if i = j then x else vget v j := by
  by_cases h : i = j
  · subst h; simp
  · rw [vget_vset_ne v h, if_neg h]

/-- Reading an entry of a mapped table. -/
@[simp] theorem vget_map {α β : Type} {n : Nat} (v : Vector α n) (f : α → β) (i : Fin n) :
    vget (v.map f) i = f (vget v i) := by
  simp [vget]

/-- Reading an entry of a uniform table. -/
@[simp] theorem vget_replicate {α : Type} {n : Nat} (x : α) (i : Fin n) : vget (Vector.replicate n x) i = x := by
  simp [vget]

/-! ## Setters -/

section
variable (s : State) (x : TransactionUnit)
@[simp] theorem withTu_tu : (s.withTu x).tu = x := rfl
@[simp] theorem withTu_ru : (s.withTu x).ru = s.ru := rfl
@[simp] theorem withTu_obt : (s.withTu x).obt = s.obt := rfl
@[simp] theorem withTu_tc : (s.withTu x).tc = s.tc := rfl
@[simp] theorem withTu_su : (s.withTu x).su = s.su := rfl
@[simp] theorem withTu_ma : (s.withTu x).ma = s.ma := rfl
@[simp] theorem withTu_el : (s.withTu x).el = s.el := rfl
@[simp] theorem withTu_mp : (s.withTu x).mp = s.mp := rfl
@[simp] theorem withTu_pins : (s.withTu x).pins = s.pins := rfl
@[simp] theorem withTu_out : (s.withTu x).out = s.out := rfl
@[simp] theorem withTu_free : (s.withTu x).free = s.free := rfl
@[simp] theorem withTu_work : (s.withTu x).work = s.work := rfl
@[simp] theorem withTu_pending : (s.withTu x).pending = s.pending := rfl
end

section
variable (s : State) (x : RegionUnit)
@[simp] theorem withRu_tu : (s.withRu x).tu = s.tu := rfl
@[simp] theorem withRu_ru : (s.withRu x).ru = x := rfl
@[simp] theorem withRu_obt : (s.withRu x).obt = s.obt := rfl
@[simp] theorem withRu_tc : (s.withRu x).tc = s.tc := rfl
@[simp] theorem withRu_su : (s.withRu x).su = s.su := rfl
@[simp] theorem withRu_ma : (s.withRu x).ma = s.ma := rfl
@[simp] theorem withRu_el : (s.withRu x).el = s.el := rfl
@[simp] theorem withRu_mp : (s.withRu x).mp = s.mp := rfl
@[simp] theorem withRu_pins : (s.withRu x).pins = s.pins := rfl
@[simp] theorem withRu_out : (s.withRu x).out = s.out := rfl
@[simp] theorem withRu_free : (s.withRu x).free = s.free := rfl
@[simp] theorem withRu_work : (s.withRu x).work = s.work := rfl
@[simp] theorem withRu_pending : (s.withRu x).pending = s.pending := rfl
end

section
variable (s : State) (x : OpenBlockTable)
@[simp] theorem withObt_tu : (s.withObt x).tu = s.tu := rfl
@[simp] theorem withObt_ru : (s.withObt x).ru = s.ru := rfl
@[simp] theorem withObt_obt : (s.withObt x).obt = x := rfl
@[simp] theorem withObt_tc : (s.withObt x).tc = s.tc := rfl
@[simp] theorem withObt_su : (s.withObt x).su = s.su := rfl
@[simp] theorem withObt_ma : (s.withObt x).ma = s.ma := rfl
@[simp] theorem withObt_el : (s.withObt x).el = s.el := rfl
@[simp] theorem withObt_mp : (s.withObt x).mp = s.mp := rfl
@[simp] theorem withObt_pins : (s.withObt x).pins = s.pins := rfl
@[simp] theorem withObt_out : (s.withObt x).out = s.out := rfl
@[simp] theorem withObt_free : (s.withObt x).free = s.free := rfl
@[simp] theorem withObt_work : (s.withObt x).work = s.work := rfl
@[simp] theorem withObt_pending : (s.withObt x).pending = s.pending := rfl
end

section
variable (s : State) (x : TagCache)
@[simp] theorem withTc_tu : (s.withTc x).tu = s.tu := rfl
@[simp] theorem withTc_ru : (s.withTc x).ru = s.ru := rfl
@[simp] theorem withTc_obt : (s.withTc x).obt = s.obt := rfl
@[simp] theorem withTc_tc : (s.withTc x).tc = x := rfl
@[simp] theorem withTc_su : (s.withTc x).su = s.su := rfl
@[simp] theorem withTc_ma : (s.withTc x).ma = s.ma := rfl
@[simp] theorem withTc_el : (s.withTc x).el = s.el := rfl
@[simp] theorem withTc_mp : (s.withTc x).mp = s.mp := rfl
@[simp] theorem withTc_pins : (s.withTc x).pins = s.pins := rfl
@[simp] theorem withTc_out : (s.withTc x).out = s.out := rfl
@[simp] theorem withTc_free : (s.withTc x).free = s.free := rfl
@[simp] theorem withTc_work : (s.withTc x).work = s.work := rfl
@[simp] theorem withTc_pending : (s.withTc x).pending = s.pending := rfl
end

section
variable (s : State) (x : SweepUnit)
@[simp] theorem withSu_tu : (s.withSu x).tu = s.tu := rfl
@[simp] theorem withSu_ru : (s.withSu x).ru = s.ru := rfl
@[simp] theorem withSu_obt : (s.withSu x).obt = s.obt := rfl
@[simp] theorem withSu_tc : (s.withSu x).tc = s.tc := rfl
@[simp] theorem withSu_su : (s.withSu x).su = x := rfl
@[simp] theorem withSu_ma : (s.withSu x).ma = s.ma := rfl
@[simp] theorem withSu_el : (s.withSu x).el = s.el := rfl
@[simp] theorem withSu_mp : (s.withSu x).mp = s.mp := rfl
@[simp] theorem withSu_pins : (s.withSu x).pins = s.pins := rfl
@[simp] theorem withSu_out : (s.withSu x).out = s.out := rfl
@[simp] theorem withSu_free : (s.withSu x).free = s.free := rfl
@[simp] theorem withSu_work : (s.withSu x).work = s.work := rfl
@[simp] theorem withSu_pending : (s.withSu x).pending = s.pending := rfl
end

section
variable (s : State) (x : MemoryArbiter)
@[simp] theorem withMa_tu : (s.withMa x).tu = s.tu := rfl
@[simp] theorem withMa_ru : (s.withMa x).ru = s.ru := rfl
@[simp] theorem withMa_obt : (s.withMa x).obt = s.obt := rfl
@[simp] theorem withMa_tc : (s.withMa x).tc = s.tc := rfl
@[simp] theorem withMa_su : (s.withMa x).su = s.su := rfl
@[simp] theorem withMa_ma : (s.withMa x).ma = x := rfl
@[simp] theorem withMa_el : (s.withMa x).el = s.el := rfl
@[simp] theorem withMa_mp : (s.withMa x).mp = s.mp := rfl
@[simp] theorem withMa_pins : (s.withMa x).pins = s.pins := rfl
@[simp] theorem withMa_out : (s.withMa x).out = s.out := rfl
@[simp] theorem withMa_free : (s.withMa x).free = s.free := rfl
@[simp] theorem withMa_work : (s.withMa x).work = s.work := rfl
@[simp] theorem withMa_pending : (s.withMa x).pending = s.pending := rfl
end

section
variable (s : State) (x : EventLog)
@[simp] theorem withEl_tu : (s.withEl x).tu = s.tu := rfl
@[simp] theorem withEl_ru : (s.withEl x).ru = s.ru := rfl
@[simp] theorem withEl_obt : (s.withEl x).obt = s.obt := rfl
@[simp] theorem withEl_tc : (s.withEl x).tc = s.tc := rfl
@[simp] theorem withEl_su : (s.withEl x).su = s.su := rfl
@[simp] theorem withEl_ma : (s.withEl x).ma = s.ma := rfl
@[simp] theorem withEl_el : (s.withEl x).el = x := rfl
@[simp] theorem withEl_mp : (s.withEl x).mp = s.mp := rfl
@[simp] theorem withEl_pins : (s.withEl x).pins = s.pins := rfl
@[simp] theorem withEl_out : (s.withEl x).out = s.out := rfl
@[simp] theorem withEl_free : (s.withEl x).free = s.free := rfl
@[simp] theorem withEl_work : (s.withEl x).work = s.work := rfl
@[simp] theorem withEl_pending : (s.withEl x).pending = s.pending := rfl
end

section
variable (s : State) (x : ManagementPort)
@[simp] theorem withMp_tu : (s.withMp x).tu = s.tu := rfl
@[simp] theorem withMp_ru : (s.withMp x).ru = s.ru := rfl
@[simp] theorem withMp_obt : (s.withMp x).obt = s.obt := rfl
@[simp] theorem withMp_tc : (s.withMp x).tc = s.tc := rfl
@[simp] theorem withMp_su : (s.withMp x).su = s.su := rfl
@[simp] theorem withMp_ma : (s.withMp x).ma = s.ma := rfl
@[simp] theorem withMp_el : (s.withMp x).el = s.el := rfl
@[simp] theorem withMp_mp : (s.withMp x).mp = x := rfl
@[simp] theorem withMp_pins : (s.withMp x).pins = s.pins := rfl
@[simp] theorem withMp_out : (s.withMp x).out = s.out := rfl
@[simp] theorem withMp_free : (s.withMp x).free = s.free := rfl
@[simp] theorem withMp_work : (s.withMp x).work = s.work := rfl
@[simp] theorem withMp_pending : (s.withMp x).pending = s.pending := rfl
end

section
variable (s : State) (x : Pins)
@[simp] theorem withPins_tu : (s.withPins x).tu = s.tu := rfl
@[simp] theorem withPins_ru : (s.withPins x).ru = s.ru := rfl
@[simp] theorem withPins_obt : (s.withPins x).obt = s.obt := rfl
@[simp] theorem withPins_tc : (s.withPins x).tc = s.tc := rfl
@[simp] theorem withPins_su : (s.withPins x).su = s.su := rfl
@[simp] theorem withPins_ma : (s.withPins x).ma = s.ma := rfl
@[simp] theorem withPins_el : (s.withPins x).el = s.el := rfl
@[simp] theorem withPins_mp : (s.withPins x).mp = s.mp := rfl
@[simp] theorem withPins_pins : (s.withPins x).pins = x := rfl
@[simp] theorem withPins_out : (s.withPins x).out = s.out := rfl
@[simp] theorem withPins_free : (s.withPins x).free = s.free := rfl
@[simp] theorem withPins_work : (s.withPins x).work = s.work := rfl
@[simp] theorem withPins_pending : (s.withPins x).pending = s.pending := rfl
end

section
variable (s : State) (x : Outputs)
@[simp] theorem withOut_tu : (s.withOut x).tu = s.tu := rfl
@[simp] theorem withOut_ru : (s.withOut x).ru = s.ru := rfl
@[simp] theorem withOut_obt : (s.withOut x).obt = s.obt := rfl
@[simp] theorem withOut_tc : (s.withOut x).tc = s.tc := rfl
@[simp] theorem withOut_su : (s.withOut x).su = s.su := rfl
@[simp] theorem withOut_ma : (s.withOut x).ma = s.ma := rfl
@[simp] theorem withOut_el : (s.withOut x).el = s.el := rfl
@[simp] theorem withOut_mp : (s.withOut x).mp = s.mp := rfl
@[simp] theorem withOut_pins : (s.withOut x).pins = s.pins := rfl
@[simp] theorem withOut_out : (s.withOut x).out = x := rfl
@[simp] theorem withOut_free : (s.withOut x).free = s.free := rfl
@[simp] theorem withOut_work : (s.withOut x).work = s.work := rfl
@[simp] theorem withOut_pending : (s.withOut x).pending = s.pending := rfl
end

section
variable (s : State) (x : Nat)
@[simp] theorem withFree_tu : (s.withFree x).tu = s.tu := rfl
@[simp] theorem withFree_ru : (s.withFree x).ru = s.ru := rfl
@[simp] theorem withFree_obt : (s.withFree x).obt = s.obt := rfl
@[simp] theorem withFree_tc : (s.withFree x).tc = s.tc := rfl
@[simp] theorem withFree_su : (s.withFree x).su = s.su := rfl
@[simp] theorem withFree_ma : (s.withFree x).ma = s.ma := rfl
@[simp] theorem withFree_el : (s.withFree x).el = s.el := rfl
@[simp] theorem withFree_mp : (s.withFree x).mp = s.mp := rfl
@[simp] theorem withFree_pins : (s.withFree x).pins = s.pins := rfl
@[simp] theorem withFree_out : (s.withFree x).out = s.out := rfl
@[simp] theorem withFree_free : (s.withFree x).free = x := rfl
@[simp] theorem withFree_work : (s.withFree x).work = s.work := rfl
@[simp] theorem withFree_pending : (s.withFree x).pending = s.pending := rfl
end

section
variable (s : State) (x : List Task)
@[simp] theorem withWork_tu : (s.withWork x).tu = s.tu := rfl
@[simp] theorem withWork_ru : (s.withWork x).ru = s.ru := rfl
@[simp] theorem withWork_obt : (s.withWork x).obt = s.obt := rfl
@[simp] theorem withWork_tc : (s.withWork x).tc = s.tc := rfl
@[simp] theorem withWork_su : (s.withWork x).su = s.su := rfl
@[simp] theorem withWork_ma : (s.withWork x).ma = s.ma := rfl
@[simp] theorem withWork_el : (s.withWork x).el = s.el := rfl
@[simp] theorem withWork_mp : (s.withWork x).mp = s.mp := rfl
@[simp] theorem withWork_pins : (s.withWork x).pins = s.pins := rfl
@[simp] theorem withWork_out : (s.withWork x).out = s.out := rfl
@[simp] theorem withWork_free : (s.withWork x).free = s.free := rfl
@[simp] theorem withWork_work : (s.withWork x).work = x := rfl
@[simp] theorem withWork_pending : (s.withWork x).pending = s.pending := rfl
end

section
variable (s : State) (x : List Instr)
@[simp] theorem withPending_tu : (s.withPending x).tu = s.tu := rfl
@[simp] theorem withPending_ru : (s.withPending x).ru = s.ru := rfl
@[simp] theorem withPending_obt : (s.withPending x).obt = s.obt := rfl
@[simp] theorem withPending_tc : (s.withPending x).tc = s.tc := rfl
@[simp] theorem withPending_su : (s.withPending x).su = s.su := rfl
@[simp] theorem withPending_ma : (s.withPending x).ma = s.ma := rfl
@[simp] theorem withPending_el : (s.withPending x).el = s.el := rfl
@[simp] theorem withPending_mp : (s.withPending x).mp = s.mp := rfl
@[simp] theorem withPending_pins : (s.withPending x).pins = s.pins := rfl
@[simp] theorem withPending_out : (s.withPending x).out = s.out := rfl
@[simp] theorem withPending_free : (s.withPending x).free = s.free := rfl
@[simp] theorem withPending_work : (s.withPending x).work = s.work := rfl
@[simp] theorem withPending_pending : (s.withPending x).pending = x := rfl
end

/-! ## Internal events -/

section
variable (s : State) (ts : List Task)
@[simp] theorem push_tu : (s.push ts).tu = s.tu := rfl
@[simp] theorem push_ru : (s.push ts).ru = s.ru := rfl
@[simp] theorem push_obt : (s.push ts).obt = s.obt := rfl
@[simp] theorem push_tc : (s.push ts).tc = s.tc := rfl
@[simp] theorem push_su : (s.push ts).su = s.su := rfl
@[simp] theorem push_ma : (s.push ts).ma = s.ma := rfl
@[simp] theorem push_el : (s.push ts).el = s.el := rfl
@[simp] theorem push_mp : (s.push ts).mp = s.mp := rfl
@[simp] theorem push_pins : (s.push ts).pins = s.pins := rfl
@[simp] theorem push_out : (s.push ts).out = s.out := rfl
@[simp] theorem push_free : (s.push ts).free = s.free := rfl
@[simp] theorem push_pending : (s.push ts).pending = s.pending := rfl
end
@[simp] theorem push_work (s : State) (ts : List Task) : (s.push ts).work = s.work ++ ts := rfl

/-! ## Region records -/

section
variable (s : State) (r : RegionId) (f : Region → Region)
@[simp] theorem updRegion_tu : (s.updRegion r f).tu = s.tu := rfl
@[simp] theorem updRegion_obt : (s.updRegion r f).obt = s.obt := rfl
@[simp] theorem updRegion_tc : (s.updRegion r f).tc = s.tc := rfl
@[simp] theorem updRegion_su : (s.updRegion r f).su = s.su := rfl
@[simp] theorem updRegion_ma : (s.updRegion r f).ma = s.ma := rfl
@[simp] theorem updRegion_el : (s.updRegion r f).el = s.el := rfl
@[simp] theorem updRegion_mp : (s.updRegion r f).mp = s.mp := rfl
@[simp] theorem updRegion_pins : (s.updRegion r f).pins = s.pins := rfl
@[simp] theorem updRegion_out : (s.updRegion r f).out = s.out := rfl
@[simp] theorem updRegion_free : (s.updRegion r f).free = s.free := rfl
@[simp] theorem updRegion_work : (s.updRegion r f).work = s.work := rfl
@[simp] theorem updRegion_pending : (s.updRegion r f).pending = s.pending := rfl
end

/-! ## Slots -/

section
variable (s : State) (i : SlotId) (f : Slot → Slot)
@[simp] theorem updSlot_ru : (s.updSlot i f).ru = s.ru := rfl
@[simp] theorem updSlot_obt : (s.updSlot i f).obt = s.obt := rfl
@[simp] theorem updSlot_tc : (s.updSlot i f).tc = s.tc := rfl
@[simp] theorem updSlot_su : (s.updSlot i f).su = s.su := rfl
@[simp] theorem updSlot_ma : (s.updSlot i f).ma = s.ma := rfl
@[simp] theorem updSlot_el : (s.updSlot i f).el = s.el := rfl
@[simp] theorem updSlot_mp : (s.updSlot i f).mp = s.mp := rfl
@[simp] theorem updSlot_pins : (s.updSlot i f).pins = s.pins := rfl
@[simp] theorem updSlot_out : (s.updSlot i f).out = s.out := rfl
@[simp] theorem updSlot_free : (s.updSlot i f).free = s.free := rfl
@[simp] theorem updSlot_work : (s.updSlot i f).work = s.work := rfl
@[simp] theorem updSlot_pending : (s.updSlot i f).pending = s.pending := rfl
end

/-! ## Cache lines -/

section
variable (s : State) (l : LineId) (f : Line → Line)
@[simp] theorem updLine_tu : (s.updLine l f).tu = s.tu := rfl
@[simp] theorem updLine_ru : (s.updLine l f).ru = s.ru := rfl
@[simp] theorem updLine_obt : (s.updLine l f).obt = s.obt := rfl
@[simp] theorem updLine_su : (s.updLine l f).su = s.su := rfl
@[simp] theorem updLine_ma : (s.updLine l f).ma = s.ma := rfl
@[simp] theorem updLine_el : (s.updLine l f).el = s.el := rfl
@[simp] theorem updLine_mp : (s.updLine l f).mp = s.mp := rfl
@[simp] theorem updLine_pins : (s.updLine l f).pins = s.pins := rfl
@[simp] theorem updLine_out : (s.updLine l f).out = s.out := rfl
@[simp] theorem updLine_free : (s.updLine l f).free = s.free := rfl
@[simp] theorem updLine_work : (s.updLine l f).work = s.work := rfl
@[simp] theorem updLine_pending : (s.updLine l f).pending = s.pending := rfl
end

/-! ## Downstream tags -/

section
variable (s : State) (t : DownTagId) (x : DownTag)
@[simp] theorem setDownTag_tu : (s.setDownTag t x).tu = s.tu := rfl
@[simp] theorem setDownTag_ru : (s.setDownTag t x).ru = s.ru := rfl
@[simp] theorem setDownTag_obt : (s.setDownTag t x).obt = s.obt := rfl
@[simp] theorem setDownTag_tc : (s.setDownTag t x).tc = s.tc := rfl
@[simp] theorem setDownTag_su : (s.setDownTag t x).su = s.su := rfl
@[simp] theorem setDownTag_el : (s.setDownTag t x).el = s.el := rfl
@[simp] theorem setDownTag_mp : (s.setDownTag t x).mp = s.mp := rfl
@[simp] theorem setDownTag_pins : (s.setDownTag t x).pins = s.pins := rfl
@[simp] theorem setDownTag_out : (s.setDownTag t x).out = s.out := rfl
@[simp] theorem setDownTag_free : (s.setDownTag t x).free = s.free := rfl
@[simp] theorem setDownTag_work : (s.setDownTag t x).work = s.work := rfl
@[simp] theorem setDownTag_pending : (s.setDownTag t x).pending = s.pending := rfl
end

/-! ## The end of a command -/

section
variable (s : State) (c : ResultCode)
@[simp] theorem finishCommand_tu : (finishCommand c s).tu = s.tu := rfl
@[simp] theorem finishCommand_ru : (finishCommand c s).ru = s.ru := rfl
@[simp] theorem finishCommand_obt : (finishCommand c s).obt = s.obt := rfl
@[simp] theorem finishCommand_tc : (finishCommand c s).tc = s.tc := rfl
@[simp] theorem finishCommand_su : (finishCommand c s).su = s.su := rfl
@[simp] theorem finishCommand_ma : (finishCommand c s).ma = s.ma := rfl
@[simp] theorem finishCommand_el : (finishCommand c s).el = s.el := rfl
@[simp] theorem finishCommand_pins : (finishCommand c s).pins = s.pins := rfl
@[simp] theorem finishCommand_out : (finishCommand c s).out = s.out := rfl
@[simp] theorem finishCommand_free : (finishCommand c s).free = s.free := rfl
@[simp] theorem finishCommand_work : (finishCommand c s).work = s.work := rfl
@[simp] theorem finishCommand_pending : (finishCommand c s).pending = s.pending := rfl
end

/-! ## Result registers -/

section
variable (s : State) (n : Nat) (bs : List Byte)
@[simp] theorem writeResults_tu : (writeResults n bs s).tu = s.tu := withMp_tu s _
@[simp] theorem writeResults_ru : (writeResults n bs s).ru = s.ru := withMp_ru s _
@[simp] theorem writeResults_obt : (writeResults n bs s).obt = s.obt := withMp_obt s _
@[simp] theorem writeResults_tc : (writeResults n bs s).tc = s.tc := withMp_tc s _
@[simp] theorem writeResults_su : (writeResults n bs s).su = s.su := withMp_su s _
@[simp] theorem writeResults_ma : (writeResults n bs s).ma = s.ma := withMp_ma s _
@[simp] theorem writeResults_el : (writeResults n bs s).el = s.el := withMp_el s _
@[simp] theorem writeResults_pins : (writeResults n bs s).pins = s.pins := withMp_pins s _
@[simp] theorem writeResults_out : (writeResults n bs s).out = s.out := withMp_out s _
@[simp] theorem writeResults_free : (writeResults n bs s).free = s.free := withMp_free s _
@[simp] theorem writeResults_work : (writeResults n bs s).work = s.work := withMp_work s _
@[simp] theorem writeResults_pending : (writeResults n bs s).pending = s.pending := withMp_pending s _
end

/-! ## Long commands -/

section
variable (s : State) (c : LongCommand)
@[simp] theorem startLong_tu : (startLong c s).tu = s.tu := rfl
@[simp] theorem startLong_ru : (startLong c s).ru = s.ru := rfl
@[simp] theorem startLong_obt : (startLong c s).obt = s.obt := rfl
@[simp] theorem startLong_tc : (startLong c s).tc = s.tc := rfl
@[simp] theorem startLong_su : (startLong c s).su = s.su := rfl
@[simp] theorem startLong_ma : (startLong c s).ma = s.ma := rfl
@[simp] theorem startLong_el : (startLong c s).el = s.el := rfl
@[simp] theorem startLong_pins : (startLong c s).pins = s.pins := rfl
@[simp] theorem startLong_out : (startLong c s).out = s.out := rfl
@[simp] theorem startLong_free : (startLong c s).free = s.free := rfl
@[simp] theorem startLong_work : (startLong c s).work = s.work := rfl
@[simp] theorem startLong_pending : (startLong c s).pending = s.pending := rfl
end

/-! ## Records offered -/

section
variable (s : State) (r : Record)
@[simp] theorem offer_tu : (offer r s).tu = s.tu := rfl
@[simp] theorem offer_ru : (offer r s).ru = s.ru := rfl
@[simp] theorem offer_obt : (offer r s).obt = s.obt := rfl
@[simp] theorem offer_tc : (offer r s).tc = s.tc := rfl
@[simp] theorem offer_su : (offer r s).su = s.su := rfl
@[simp] theorem offer_ma : (offer r s).ma = s.ma := rfl
@[simp] theorem offer_mp : (offer r s).mp = s.mp := rfl
@[simp] theorem offer_pins : (offer r s).pins = s.pins := rfl
@[simp] theorem offer_out : (offer r s).out = s.out := rfl
@[simp] theorem offer_free : (offer r s).free = s.free := rfl
@[simp] theorem offer_work : (offer r s).work = s.work := rfl
@[simp] theorem offer_pending : (offer r s).pending = s.pending := rfl
end

/-! ## Requests appended -/

section
variable (s : State) (q : Request)
@[simp] theorem appendRequest_tu : (appendRequest q s).tu = s.tu := rfl
@[simp] theorem appendRequest_ru : (appendRequest q s).ru = s.ru := rfl
@[simp] theorem appendRequest_obt : (appendRequest q s).obt = s.obt := rfl
@[simp] theorem appendRequest_tc : (appendRequest q s).tc = s.tc := rfl
@[simp] theorem appendRequest_su : (appendRequest q s).su = s.su := rfl
@[simp] theorem appendRequest_el : (appendRequest q s).el = s.el := rfl
@[simp] theorem appendRequest_mp : (appendRequest q s).mp = s.mp := rfl
@[simp] theorem appendRequest_pins : (appendRequest q s).pins = s.pins := rfl
@[simp] theorem appendRequest_out : (appendRequest q s).out = s.out := rfl
@[simp] theorem appendRequest_free : (appendRequest q s).free = s.free := rfl
@[simp] theorem appendRequest_work : (appendRequest q s).work = s.work := rfl
@[simp] theorem appendRequest_pending : (appendRequest q s).pending = s.pending := rfl
end

/-! ## Reading a table after a setter of another unit -/

@[simp] theorem withTu_region (s : State) (x : TransactionUnit) (r : RegionId) : (s.withTu x).region r = s.region r := rfl
@[simp] theorem withTu_line (s : State) (x : TransactionUnit) (r : LineId) : (s.withTu x).line r = s.line r := rfl
@[simp] theorem withTu_downTag (s : State) (x : TransactionUnit) (r : DownTagId) : (s.withTu x).downTag r = s.downTag r := rfl
@[simp] theorem withRu_slot (s : State) (x : RegionUnit) (r : SlotId) : (s.withRu x).slot r = s.slot r := rfl
@[simp] theorem withRu_line (s : State) (x : RegionUnit) (r : LineId) : (s.withRu x).line r = s.line r := rfl
@[simp] theorem withRu_downTag (s : State) (x : RegionUnit) (r : DownTagId) : (s.withRu x).downTag r = s.downTag r := rfl
@[simp] theorem withObt_region (s : State) (x : OpenBlockTable) (r : RegionId) : (s.withObt x).region r = s.region r := rfl
@[simp] theorem withObt_slot (s : State) (x : OpenBlockTable) (r : SlotId) : (s.withObt x).slot r = s.slot r := rfl
@[simp] theorem withObt_line (s : State) (x : OpenBlockTable) (r : LineId) : (s.withObt x).line r = s.line r := rfl
@[simp] theorem withObt_downTag (s : State) (x : OpenBlockTable) (r : DownTagId) : (s.withObt x).downTag r = s.downTag r := rfl
@[simp] theorem withTc_region (s : State) (x : TagCache) (r : RegionId) : (s.withTc x).region r = s.region r := rfl
@[simp] theorem withTc_slot (s : State) (x : TagCache) (r : SlotId) : (s.withTc x).slot r = s.slot r := rfl
@[simp] theorem withTc_downTag (s : State) (x : TagCache) (r : DownTagId) : (s.withTc x).downTag r = s.downTag r := rfl
@[simp] theorem withSu_region (s : State) (x : SweepUnit) (r : RegionId) : (s.withSu x).region r = s.region r := rfl
@[simp] theorem withSu_slot (s : State) (x : SweepUnit) (r : SlotId) : (s.withSu x).slot r = s.slot r := rfl
@[simp] theorem withSu_line (s : State) (x : SweepUnit) (r : LineId) : (s.withSu x).line r = s.line r := rfl
@[simp] theorem withSu_downTag (s : State) (x : SweepUnit) (r : DownTagId) : (s.withSu x).downTag r = s.downTag r := rfl
@[simp] theorem withMa_region (s : State) (x : MemoryArbiter) (r : RegionId) : (s.withMa x).region r = s.region r := rfl
@[simp] theorem withMa_slot (s : State) (x : MemoryArbiter) (r : SlotId) : (s.withMa x).slot r = s.slot r := rfl
@[simp] theorem withMa_line (s : State) (x : MemoryArbiter) (r : LineId) : (s.withMa x).line r = s.line r := rfl
@[simp] theorem withEl_region (s : State) (x : EventLog) (r : RegionId) : (s.withEl x).region r = s.region r := rfl
@[simp] theorem withEl_slot (s : State) (x : EventLog) (r : SlotId) : (s.withEl x).slot r = s.slot r := rfl
@[simp] theorem withEl_line (s : State) (x : EventLog) (r : LineId) : (s.withEl x).line r = s.line r := rfl
@[simp] theorem withEl_downTag (s : State) (x : EventLog) (r : DownTagId) : (s.withEl x).downTag r = s.downTag r := rfl
@[simp] theorem withMp_region (s : State) (x : ManagementPort) (r : RegionId) : (s.withMp x).region r = s.region r := rfl
@[simp] theorem withMp_slot (s : State) (x : ManagementPort) (r : SlotId) : (s.withMp x).slot r = s.slot r := rfl
@[simp] theorem withMp_line (s : State) (x : ManagementPort) (r : LineId) : (s.withMp x).line r = s.line r := rfl
@[simp] theorem withMp_downTag (s : State) (x : ManagementPort) (r : DownTagId) : (s.withMp x).downTag r = s.downTag r := rfl
@[simp] theorem withPins_region (s : State) (x : Pins) (r : RegionId) : (s.withPins x).region r = s.region r := rfl
@[simp] theorem withPins_slot (s : State) (x : Pins) (r : SlotId) : (s.withPins x).slot r = s.slot r := rfl
@[simp] theorem withPins_line (s : State) (x : Pins) (r : LineId) : (s.withPins x).line r = s.line r := rfl
@[simp] theorem withPins_downTag (s : State) (x : Pins) (r : DownTagId) : (s.withPins x).downTag r = s.downTag r := rfl
@[simp] theorem withOut_region (s : State) (x : Outputs) (r : RegionId) : (s.withOut x).region r = s.region r := rfl
@[simp] theorem withOut_slot (s : State) (x : Outputs) (r : SlotId) : (s.withOut x).slot r = s.slot r := rfl
@[simp] theorem withOut_line (s : State) (x : Outputs) (r : LineId) : (s.withOut x).line r = s.line r := rfl
@[simp] theorem withOut_downTag (s : State) (x : Outputs) (r : DownTagId) : (s.withOut x).downTag r = s.downTag r := rfl
@[simp] theorem withFree_region (s : State) (x : Nat) (r : RegionId) : (s.withFree x).region r = s.region r := rfl
@[simp] theorem withFree_slot (s : State) (x : Nat) (r : SlotId) : (s.withFree x).slot r = s.slot r := rfl
@[simp] theorem withFree_line (s : State) (x : Nat) (r : LineId) : (s.withFree x).line r = s.line r := rfl
@[simp] theorem withFree_downTag (s : State) (x : Nat) (r : DownTagId) : (s.withFree x).downTag r = s.downTag r := rfl
@[simp] theorem withWork_region (s : State) (x : List Task) (r : RegionId) : (s.withWork x).region r = s.region r := rfl
@[simp] theorem withWork_slot (s : State) (x : List Task) (r : SlotId) : (s.withWork x).slot r = s.slot r := rfl
@[simp] theorem withWork_line (s : State) (x : List Task) (r : LineId) : (s.withWork x).line r = s.line r := rfl
@[simp] theorem withWork_downTag (s : State) (x : List Task) (r : DownTagId) : (s.withWork x).downTag r = s.downTag r := rfl
@[simp] theorem withPending_region (s : State) (x : List Instr) (r : RegionId) : (s.withPending x).region r = s.region r := rfl
@[simp] theorem withPending_slot (s : State) (x : List Instr) (r : SlotId) : (s.withPending x).slot r = s.slot r := rfl
@[simp] theorem withPending_line (s : State) (x : List Instr) (r : LineId) : (s.withPending x).line r = s.line r := rfl
@[simp] theorem withPending_downTag (s : State) (x : List Instr) (r : DownTagId) : (s.withPending x).downTag r = s.downTag r := rfl

/-! ## Reading a table after its own update -/

/-- The record just changed. -/
@[simp] theorem updRegion_region_same (s : State) (r : RegionId) (f : Region → Region) :
    (s.updRegion r f).region r = f (s.region r) := by
  simp [State.updRegion, State.region, State.withRu]

/-- Any record after one is changed. -/
theorem updRegion_region (s : State) (r q : RegionId) (f : Region → Region) :
    (s.updRegion r f).region q = if r = q then f (s.region q) else s.region q := by
  by_cases h : r = q
  · subst h; simp
  · simp only [State.updRegion, State.region, State.withRu, if_neg h]
    exact vget_vset_ne _ h _

/-- The slot just changed. -/
@[simp] theorem updSlot_slot_same (s : State) (i : SlotId) (f : Slot → Slot) : (s.updSlot i f).slot i = f (s.slot i) := by
  simp [State.updSlot, State.slot, State.withTu]

/-- Any slot after one is changed. -/
theorem updSlot_slot (s : State) (i j : SlotId) (f : Slot → Slot) :
    (s.updSlot i f).slot j = if i = j then f (s.slot j) else s.slot j := by
  by_cases h : i = j
  · subst h; simp
  · simp only [State.updSlot, State.slot, State.withTu, if_neg h]
    exact vget_vset_ne _ h _

/-- The line just changed. -/
@[simp] theorem updLine_line_same (s : State) (l : LineId) (f : Line → Line) : (s.updLine l f).line l = f (s.line l) := by
  simp [State.updLine, State.line, State.withTc]

/-- Any line after one is changed. -/
theorem updLine_line (s : State) (l k : LineId) (f : Line → Line) :
    (s.updLine l f).line k = if l = k then f (s.line k) else s.line k := by
  by_cases h : l = k
  · subst h; simp
  · simp only [State.updLine, State.line, State.withTc, if_neg h]
    exact vget_vset_ne _ h _

/-- The tag just replaced. -/
@[simp] theorem setDownTag_same (s : State) (t : DownTagId) (x : DownTag) : (s.setDownTag t x).downTag t = x := by
  simp [State.setDownTag, State.downTag, State.withMa]

/-- Any tag after one is replaced. -/
theorem setDownTag_downTag (s : State) (t u : DownTagId) (x : DownTag) :
    (s.setDownTag t x).downTag u = if t = u then x else s.downTag u := by
  simp only [State.setDownTag, State.downTag, State.withMa]
  exact vget_vset _ _ _ _

end Sys2Proof.Machine
end

