-- ==== Sys2Proof/Laws/Moves.lean ====
section
/-! SUPPORT. What one step's chain of internal events can do, said once: `Moves s t` is a chain of elementary changes, and every
operation that a cascade calls is such a chain. A proof about a step cites these lemmas and does not unfold the operations. -/

namespace Sys2Proof.Machine

/-! ## The elementary changes -/

/-- What a cascade leaves of a region record: all but its state (save that it is defined), frontier, fence, error count,
warn-reported flag and drain fields. -/
def Region.definition (g : Region) : Region :=
  { g with
    state := if g.state = .empty then .empty else .configured
    frontier := 0, fenced := false, errorCount := 0, warnReported := false, drainPhase := none, drainFlushed := false
    drainDiscards := 0 }

/-- A Region Unit whose records keep their definitions, with the same Requester Map and unmapped policy. -/
def RegionUnit.Keeps (a b : RegionUnit) : Prop :=
  b.requesterMap = a.requesterMap ∧ b.unmapped = a.unmapped ∧
    ∀ r, (vget b.regions r).definition = (vget a.regions r).definition

/-- A sweep unit with no job but those it had, by their IDs in their order, and the same pacing interval and job ID counter. -/
def SweepUnit.Keeps (a b : SweepUnit) : Prop :=
  (b.jobs.map (·.id)).Sublist (a.jobs.map (·.id)) ∧ b.pacing = a.pacing ∧ b.nextId = a.nextId

/-- A management port that differs only in the mailbox: its state and result as they were, or a command ended DONE_OK or
DONE_PARTIAL; and the mailbox still BUSY exactly with a long command, where it was so. -/
def ManagementPort.Keeps (a b : ManagementPort) : Prop :=
  (b.strap = a.strap ∧ b.phase = a.phase ∧ b.offset = a.offset ∧ b.overrun = a.overrun ∧ b.params = a.params ∧
    b.results = a.results ∧ b.window = a.window) ∧
  ((b.mailbox = a.mailbox ∧ b.result = a.result) ∨ (b.mailbox = .done ∧ (b.result = .doneOk ∨ b.result = .donePartial))) ∧
  ((a.mailbox = .busy ↔ a.long.isSome = true) → (b.mailbox = .busy ↔ b.long.isSome = true))

/-- One elementary change of a cascade. -/
inductive Move (s : State) : State → Prop
  | tu (x : TransactionUnit) : Move s (s.withTu x)
  | ru (x : RegionUnit) (h : s.ru.Keeps x) : Move s (s.withRu x)
  | obt (x : OpenBlockTable) (h : x.entries = s.obt.entries) : Move s (s.withObt x)
  | join (m : Mode) (r : RegionId) (b : Nat) : Move s (s.withEntries (joinEntries .sweep m r b s.obt.entries))
  | grant (r : RegionId) (b : Nat) (e : Entry) (h : s.obt.entry r b = some e) :
      Move s (s.withEntries (s.obt.entries.map fun x => if x.isFor r b then e.grant.1 else x))
  | leave (op : OpId) : Move s (s.withEntries ((s.obt.entries.map (Entry.without op)).filter Entry.occupied))
  | tc (x : TagCache) : Move s (s.withTc x)
  | su (x : SweepUnit) (h : s.su.Keeps x) : Move s (s.withSu x)
  | append (q : Request) : Move s (appendRequest q s)
  | detach (l : LineId) : Move s (detachLine l s)
  | offer (r : Record) : Move s (offer r s)
  | mp (x : ManagementPort) (h : s.mp.Keeps x) : Move s (s.withMp x)
  | work (x : List Task) : Move s (s.withWork x)

/-- A chain of elementary changes. -/
inductive Moves (s : State) : State → Prop
  | refl : Moves s s
  | step {t u : State} (h : Moves s t) (m : Move t u) : Moves s u

/-- Chains join. -/
theorem Moves.trans {s t u : State} (h : Moves s t) (k : Moves t u) : Moves s u := by
  induction k with
  | refl => exact h
  | step _ m ih => exact ih.step m

variable {s t : State}

/-! ## Setters and tables -/

theorem moves_withTu (x : TransactionUnit) (h : Moves s t) : Moves s (t.withTu x) := h.step (.tu x)
theorem moves_withTc (x : TagCache) (h : Moves s t) : Moves s (t.withTc x) := h.step (.tc x)
theorem moves_withWork (x : List Task) (h : Moves s t) : Moves s (t.withWork x) := h.step (.work x)
theorem moves_push (x : List Task) (h : Moves s t) : Moves s (t.push x) := h.step (.work _)
theorem moves_withObt (x : OpenBlockTable) (e : x.entries = t.obt.entries) (h : Moves s t) : Moves s (t.withObt x) :=
  h.step (.obt x e)
theorem moves_withSu (x : SweepUnit) (e : t.su.Keeps x) (h : Moves s t) : Moves s (t.withSu x) := h.step (.su x e)
theorem moves_withMp (x : ManagementPort) (e : t.mp.Keeps x) (h : Moves s t) : Moves s (t.withMp x) := h.step (.mp x e)
theorem moves_offer (r : Record) (h : Moves s t) : Moves s (offer r t) := h.step (.offer r)
theorem moves_appendRequest (q : Request) (h : Moves s t) : Moves s (appendRequest q t) := h.step (.append q)
theorem moves_detachLine (l : LineId) (h : Moves s t) : Moves s (detachLine l t) := h.step (.detach l)
theorem moves_updSlot (i : SlotId) (f : Slot → Slot) (h : Moves s t) : Moves s (t.updSlot i f) := h.step (.tu _)
theorem moves_updPart (i : SlotId) (k : Nat) (f : Part → Part) (h : Moves s t) : Moves s (t.updPart i k f) := h.step (.tu _)
theorem moves_updLine (l : LineId) (f : Line → Line) (h : Moves s t) : Moves s (t.updLine l f) := h.step (.tc _)
theorem moves_updBuffer (b : Fin 8) (f : Buffer → Buffer) (h : Moves s t) : Moves s (t.updBuffer b f) := h.step (.obt _ rfl)
theorem moves_setBlockWork (w : BlockWork) (h : Moves s t) : Moves s (t.setBlockWork w) :=
  h.step (.su _ ⟨List.Sublist.refl _, rfl, rfl⟩)
theorem moves_withJobs (js : List Job) (e : (js.map (·.id)).Sublist (t.su.jobs.map (·.id))) (h : Moves s t) : Moves s (t.withJobs js) :=
  h.step (.su _ ⟨e, rfl, rfl⟩)

/-- A region record changed within its definition. -/
theorem moves_updRegion (r : RegionId) (f : Region → Region) (e : (f (t.region r)).definition = (t.region r).definition)
    (h : Moves s t) : Moves s (t.updRegion r f) := by
  refine h.step (.ru _ ⟨rfl, rfl, fun q => ?_⟩)
  simp only [vget_vset]
  split
  · next hq => subst hq; exact e
  · rfl

/-- A fold of chains is a chain. -/
theorem moves_foldl {α : Type} (f : State → α → State) (l : List α) (hf : ∀ t a, Moves s t → Moves s (f t a)) (h : Moves s t) :
    Moves s (l.foldl f t) := by
  induction l generalizing t with
  | nil => exact h
  | cons a as ih => exact ih (hf t a h)

/-- A record offered or not. -/
theorem moves_offerIf (c : Bool) (r : Record) (h : Moves s t) : Moves s (offerIf c r t) := by
  unfold offerIf; split
  · exact moves_offer r h
  · exact h

theorem moves_finishCommand (c : ResultCode) (e : c = .doneOk ∨ c = .donePartial) (h : Moves s t) :
    Moves s (finishCommand c t) :=
  h.step (.mp _ ⟨⟨rfl, rfl, rfl, rfl, rfl, rfl, rfl⟩, .inr ⟨rfl, e⟩, fun _ => by simp⟩)
theorem moves_startLong (c : LongCommand) (e : t.mp.long.isSome = true) (h : Moves s t) : Moves s (startLong c t) :=
  h.step (.mp _ ⟨⟨rfl, rfl, rfl, rfl, rfl, rfl, rfl⟩, .inl ⟨rfl, rfl⟩, fun k => by simp [k.mpr e]⟩)

/-- A command ended DONE_OK or DONE_PARTIAL by a test. -/
theorem doneOk_or_donePartial (p : Prop) [Decidable p] :
    (if p then ResultCode.doneOk else .donePartial) = .doneOk ∨ (if p then ResultCode.doneOk else .donePartial) = .donePartial := by
  split <;> simp

theorem moves_appendRequests (qs : List Request) (h : Moves s t) : Moves s (appendRequests qs t) :=
  moves_foldl _ qs (fun _ q => moves_appendRequest q) h

/-! ## The Open Block Table and the sweep queue -/

theorem moves_setStep (st : JobStep) (h : Moves s t) : Moves s (setStep st t) := by
  unfold setStep; split
  · exact h
  · next j rest e => exact moves_withSu _ ⟨by simp [e], rfl, rfl⟩ h

theorem moves_updHeadJob (f : Job → Job) (e : ∀ j, (f j).id = j.id) (h : Moves s t) : Moves s (t.updHeadJob f) := by
  unfold State.updHeadJob; split
  · exact h
  · next j rest k => exact moves_withJobs _ (by simp [k, e]) h

theorem moves_granted (op : OpId) (h : Moves s t) : Moves s (granted t op) := by
  unfold granted; split
  · split
    · exact moves_push _ h
    · exact h
  · exact moves_push _ (moves_setStep _ h)

theorem moves_applyGrant (r : RegionId) (b : Nat) (h : Moves s t) : Moves s (applyGrant r b t) := by
  unfold applyGrant; split
  · exact h
  · next e he => exact moves_foldl _ _ (fun _ op => moves_granted op) (h.step (.grant r b e he))

theorem moves_leaveBlocks (op : OpId) (h : Moves s t) : Moves s (leaveBlocks op t) := moves_push _ (h.step (.leave op))

theorem moves_assignBuffer (i : SlotId) (k : Nat) (h : Moves s t) : Moves s (assignBuffer i t k) := by
  unfold assignBuffer; split
  · exact h
  · exact moves_updBuffer _ _ h

theorem moves_assignBuffers (i : SlotId) (ks : List Nat) (h : Moves s t) : Moves s (assignBuffers i ks t) :=
  moves_foldl _ ks (fun _ k => moves_assignBuffer i k) h

theorem moves_storeInBuffer (i : SlotId) (k off : Nat) (bs : List Byte) (h : Moves s t) :
    Moves s (storeInBuffer i k off bs t) := by
  unfold storeInBuffer; split
  · exact h
  · exact moves_updBuffer _ _ h

theorem moves_returnBuffers (op : OpId) (h : Moves s t) : Moves s (returnBuffers op t) := by
  unfold returnBuffers; split <;> exact moves_withObt _ (by rfl) h

theorem moves_joinSweep (h : Moves s t) : Moves s (joinSweep t) := by
  unfold joinSweep; split
  · exact h
  · exact moves_push _ ((moves_setStep _ h).step (.join _ _ _))

theorem moves_startNext (h : Moves s t) : Moves s (startNext t) := by
  unfold startNext; split
  · exact h
  · next j rest e =>
    split
    · exact moves_joinSweep (moves_withJobs _ (by simp [e]) h)
    · exact h

theorem moves_endHeadJob (k : RecordKind) (d : Option Nat) (h : Moves s t) : Moves s (endHeadJob k d t) := by
  unfold endHeadJob; split
  · exact h
  · next j rest e => exact moves_startNext (moves_withJobs _ (by simp [e]) (moves_offer _ h))

theorem moves_withdrawJobFlush (h : Moves s t) : Moves s (withdrawJobFlush t) := moves_withTc _ h

theorem moves_stopPacing (h : Moves s t) : Moves s (stopPacing t) := moves_withSu _ ⟨List.Sublist.refl _, rfl, rfl⟩ h

theorem moves_cancelJob (j : Job) (h : Moves s t) : Moves s (cancelJob j t).1 := by
  unfold cancelJob
  split <;> first | exact h | exact moves_withdrawJobFlush h | exact moves_stopPacing h | exact moves_leaveBlocks _ h

/-- Cancelling a job leaves the queue as it is: the caller takes the job out. -/
theorem cancelJob_jobs (j : Job) (t : State) : (cancelJob j t).1.su.jobs = t.su.jobs := by
  unfold cancelJob; split <;> rfl

/-- One step of a cancel event moves the state, keeps the queue it reads, and keeps at most the one job more. -/
theorem cancelStep_spec (p : Job → Bool) (acc : List Job × State) (j : Job) (h : Moves s acc.2) :
    Moves s (cancelStep p acc j).2 ∧ (cancelStep p acc j).2.su.jobs = acc.2.su.jobs ∧
      ((cancelStep p acc j).1.map (·.id)).Sublist (acc.1.map (·.id) ++ [j.id]) := by
  unfold cancelStep; split
  · exact ⟨h, rfl, by simp⟩
  · split
    · exact ⟨moves_cancelJob j h, cancelJob_jobs j _, by simp⟩
    · exact ⟨moves_offer _ (moves_cancelJob j h), cancelJob_jobs j _, by simp⟩

/-- A cancel event's fold moves the state, keeps the queue it reads, and keeps at most the jobs it has looked at. -/
theorem cancelFold_spec (p : Job → Bool) (l : List Job) (acc : List Job × State) (h : Moves s acc.2) :
    Moves s (l.foldl (cancelStep p) acc).2 ∧ (l.foldl (cancelStep p) acc).2.su.jobs = acc.2.su.jobs ∧
      ((l.foldl (cancelStep p) acc).1.map (·.id)).Sublist (acc.1.map (·.id) ++ l.map (·.id)) := by
  induction l generalizing acc with
  | nil => exact ⟨h, rfl, by simp⟩
  | cons j l ih =>
    obtain ⟨h1, h2, h3⟩ := cancelStep_spec p acc j h
    obtain ⟨k1, k2, k3⟩ := ih _ h1
    refine ⟨k1, k2.trans h2, ?_⟩
    have := k3.trans (h3.append_right (l.map (·.id)))
    simpa using this

theorem moves_cancelJobs (p : Job → Bool) (h : Moves s t) : Moves s (cancelJobs p t) := by
  obtain ⟨k1, k2, k3⟩ := cancelFold_spec p t.su.jobs ([], t) h
  unfold cancelJobs
  exact moves_startNext (moves_withJobs _ (by rw [k2]; simpa using k3) k1)

/-! ## The Region Unit -/

theorem Region.reported_definition (g : Region) : g.reported.definition = g.definition := rfl

theorem Region.advance_definition (b : Nat) (g : Region) : (g.advance b).definition = g.definition := by
  unfold Region.advance Region.definition
  congr 1
  by_cases h : g.state = .formatting ∧ b + 1 = g.blockCount
  · simp [h.1, h.2]
  · simp [h]

theorem moves_healthReport (src : Source) (r : RegionId) (b : Nat) (w : Option (RequesterId × TransactionId)) (h : Moves s t) :
    Moves s (healthReport src r b w t) :=
  moves_offerIf _ _ (moves_offerIf _ _ (moves_updRegion _ _ rfl h))

/-- A drain begun in a defined region keeps its definition. -/
theorem Region.beginDrain_definition (g : Region) (e : g.state ≠ .empty) : g.beginDrain.definition = g.definition := by
  simp [Region.beginDrain, Region.definition, e]

theorem moves_startDrain (r : RegionId) (e : (t.region r).state ≠ .empty) (h : Moves s t) : Moves s (startDrain r t) :=
  moves_push _ (moves_cancelJobs _ (moves_updRegion _ _ (Region.beginDrain_definition _ e) h))

theorem moves_reportDrain (r : RegionId) (d : Nat) (h : Moves s t) : Moves s (reportDrain r d t) := by
  unfold reportDrain
  split
  · split
    · exact moves_finishCommand _ (doneOk_or_donePartial _) h
    · exact h
  · next e => exact moves_startLong _ (by simp [e]) h
  · exact h
  · exact h

theorem moves_lineLost (r : RegionId) (l : Nat) (h : Moves s t) : Moves s (lineLost r l t) := by
  unfold lineLost
  split
  · next e =>
    exact moves_cancelJobs _ (moves_offer _ (moves_updRegion _ _ (by simp [Region.definition, e]) h))
  · next e =>
    exact moves_cancelJobs _ (moves_offer _ (moves_updRegion _ _ (by simp [Region.definition, e]) h))
  · exact moves_updRegion _ _ rfl h
  · exact h
  · exact h
  · exact h

/-! ## The Tag Cache -/

theorem moves_touchLine (l : LineId) (h : Moves s t) : Moves s (touchLine l t) := moves_withTc _ h
theorem moves_invalidateLine (l : LineId) (h : Moves s t) : Moves s (invalidateLine l t) := moves_withTc _ h

theorem moves_issueWriteback (l : LineId) (h : Moves s t) : Moves s (issueWriteback l t) := by
  unfold issueWriteback; split
  · exact h
  · exact moves_appendRequest _ (moves_updLine _ _ h)

theorem moves_demandWriteback (l : LineId) (h : Moves s t) : Moves s (demandWriteback l t) := by
  unfold demandWriteback; split
  · exact moves_issueWriteback l h
  · exact h

theorem moves_highWater (h : Moves s t) : Moves s (highWater t) :=
  moves_foldl _ _ (fun _ l => moves_issueWriteback l) h

theorem moves_dirtied (l : LineId) (h : Moves s t) : Moves s (dirtied l t) := moves_highWater (moves_demandWriteback l h)

/-- Invalidating lines keeps the region records. -/
theorem invalidate_fold_region (ls : List LineId) (t : State) (r : RegionId) :
    (ls.foldl (fun s l => invalidateLine l s) t).region r = t.region r := by
  induction ls generalizing t with
  | nil => rfl
  | cons l ls ih => exact ih _

theorem moves_endDrain (r : RegionId) (e : (t.region r).state = .draining) (h : Moves s t) : Moves s (endDrain r t) := by
  unfold endDrain
  refine moves_reportDrain _ _ (moves_updRegion _ _ ?_ (moves_foldl _ _ (fun _ l => moves_invalidateLine l) h))
  rw [invalidate_fold_region]
  simp [Region.endDrain, Region.definition, e]

theorem moves_tryEndDrain (r : RegionId) (h : Moves s t) : Moves s (tryEndDrain r t) := by
  unfold tryEndDrain; split
  · next e => exact moves_endDrain r e.1 h
  · exact h

theorem moves_flushReport (m : FlushMaker) (d : Nat) (h : Moves s t) : Moves s (flushReport m d t) := by
  unfold flushReport; split
  · exact moves_finishCommand _ (doneOk_or_donePartial _) h
  · exact moves_endHeadJob _ _ h
  · exact moves_tryEndDrain _ (moves_updRegion _ _ rfl h)

theorem moves_completeFlushes (h : Moves s t) : Moves s (completeFlushes t) :=
  moves_foldl _ _ (fun _ f => moves_flushReport f.maker f.discarded) (moves_withTc _ h)

theorem moves_leaveFlushes (k : RegionId × Nat) (d : Bool) (h : Moves s t) : Moves s (leaveFlushes k d t) :=
  moves_completeFlushes (moves_withTc _ h)

theorem moves_makeFlush (m : FlushMaker) (sc : Option RegionId) (h : Moves s t) : Moves s (makeFlush m sc t) := by
  unfold makeFlush; split
  · exact moves_flushReport _ _ h
  · exact moves_foldl _ _ (fun _ l => moves_demandWriteback l) (moves_withTc _ h)

theorem moves_drainCheck (r : RegionId) (h : Moves s t) : Moves s (drainCheck r t) := by
  unfold drainCheck; split
  · exact moves_makeFlush _ _ (moves_updRegion _ _ rfl h)
  · exact h

theorem moves_becomeClean (l : LineId) (h : Moves s t) : Moves s (becomeClean l t) := by
  unfold becomeClean; split
  · exact moves_updLine _ _ h
  · exact moves_leaveFlushes _ _ (moves_updLine _ _ h)

theorem moves_queueKey (r : RegionId) (l : Nat) (ws : List (OpId × Nat)) (h : Moves s t) : Moves s (queueKey r l ws t) := by
  unfold queueKey; split <;> exact moves_withTc _ h

theorem moves_requeueWaiters (r : RegionId) (l : Nat) (ws : List (OpId × Nat)) (h : Moves s t) :
    Moves s (requeueWaiters r l ws t) := by
  unfold requeueWaiters; split
  · exact h
  · exact moves_queueKey _ _ _ h

theorem moves_discardLine (l : LineId) (h : Moves s t) : Moves s (discardLine l t) := by
  unfold discardLine; split
  · exact h
  · exact moves_requeueWaiters _ _ _ (moves_leaveFlushes _ _ (moves_lineLost _ _ (moves_offer _
      (moves_detachLine _ (moves_invalidateLine _ h)))))

theorem moves_lookupLine (op : OpId) (p b : Nat) (l : LineId) (h : Moves s t) : Moves s (lookupLine op p b l t) := by
  unfold lookupLine
  split <;> first
    | exact h
    | exact moves_push _ (moves_updLine _ _ (moves_touchLine _ h))
    | exact moves_updLine _ _ (moves_touchLine _ h)

theorem moves_lookupTag (op : OpId) (p : Nat) (r : RegionId) (b : Nat) (h : Moves s t) : Moves s (lookupTag op p r b t) := by
  unfold lookupTag; split
  · exact moves_lookupLine _ _ _ _ h
  · exact moves_queueKey _ _ _ h

theorem moves_dropPins (op : OpId) (h : Moves s t) : Moves s (dropPins op t) :=
  moves_highWater (moves_foldl _ _ (fun _ l => moves_discardLine l) (moves_withTc _ h))

theorem moves_issueTagWrite (l : LineId) (d : Deferred) (h : Moves s t) : Moves s (issueTagWrite l d t) := by
  unfold issueTagWrite; split
  · exact h
  · exact moves_appendRequest _ h

theorem moves_issueDeferred (l : LineId) (h : Moves s t) : Moves s (issueDeferred l t) :=
  moves_updLine _ _ (moves_foldl _ _ (fun _ d => moves_issueTagWrite l d) h)

theorem moves_throughWrite (l : LineId) (d : Deferred) (h : Moves s t) : Moves s (throughWrite l d t) := by
  unfold throughWrite; split
  · exact moves_updLine _ _ h
  · exact moves_issueTagWrite _ _ (moves_updLine _ _ h)

theorem moves_followUpdate (op : OpId) (p : Nat) (r : RegionId) (b : Nat) (l : LineId) (h : Moves s t) :
    Moves s (followUpdate op p r b l t) := by
  unfold followUpdate; split
  · exact moves_throughWrite _ _ h
  · exact h

theorem moves_tagUpdate (op : OpId) (p : Nat) (r : RegionId) (b : Nat) (x : Tag) (h : Moves s t) :
    Moves s (tagUpdate op p r b x t) := by
  unfold tagUpdate; split
  · exact h
  · exact moves_dirtied _ (moves_followUpdate _ _ _ _ _ (moves_updLine _ _ h))

theorem moves_allocateLine (l : LineId) (k : AllocKey) (h : Moves s t) : Moves s (allocateLine l k t) :=
  moves_appendRequest _ (moves_touchLine _ (moves_updLine _ _ h))

theorem moves_reserveLine (h : Moves s t) : Moves s (reserveLine t) := by
  unfold reserveLine; split
  · exact h
  · split
    · exact h
    · exact moves_issueWriteback _ (moves_updLine _ _ h)

theorem moves_examineAllocation (n : Nat) (h : Moves s t) : Moves s (examineAllocation n t) := by
  induction n generalizing t with
  | zero => exact h
  | succ n ih =>
    unfold examineAllocation; split
    · exact h
    · split
      · exact ih (moves_allocateLine _ _ (moves_withTc _ h))
      · exact moves_reserveLine h

theorem moves_retryExpired (l : LineId) (h : Moves s t) : Moves s (retryExpired l t) := by
  unfold retryExpired; split
  · exact moves_dirtied _ (moves_updLine _ _ h)
  · exact h

/-! ## Completions at a line -/

theorem moves_fillOk (l : LineId) (r : RegionId) (d : List Byte) (h : Moves s t) : Moves s (fillOk l r d t) :=
  moves_tryEndDrain _ (moves_push _ (moves_updLine _ _ h))

theorem moves_fillFail (l : LineId) (r : RegionId) (n : Nat) (h : Moves s t) : Moves s (fillFail l r n t) :=
  moves_tryEndDrain _ (moves_push _ (moves_offer _ (moves_invalidateLine _ h)))

theorem moves_writebackOk (l : LineId) (h : Moves s t) : Moves s (writebackOk l t) := by
  unfold writebackOk; split
  · exact moves_dirtied _ (moves_updLine _ _ (moves_issueDeferred _ h))
  · exact moves_becomeClean _ (moves_issueDeferred _ h)

theorem moves_strandLine (l : LineId) (h : Moves s t) : Moves s (strandLine l t) := by
  unfold strandLine; split
  · exact moves_discardLine _ (moves_updLine _ _ h)
  · exact moves_updLine _ _ h

theorem moves_writebackFail (l : LineId) (r : RegionId) (n : Nat) (h : Moves s t) : Moves s (writebackFail l r n t) := by
  unfold writebackFail; split
  · exact moves_dirtied _ (moves_offer _ (moves_updLine _ _ (moves_issueDeferred _ h)))
  · exact moves_strandLine _ (moves_updLine _ _ (moves_issueDeferred _ h))

theorem moves_lineDone (l : LineId) (ok : Bool) (d : List Byte) (h : Moves s t) : Moves s (lineDone l ok d t) := by
  unfold lineDone; split
  · split
    · exact moves_fillOk _ _ _ h
    · exact moves_fillFail _ _ _ h
  · split
    · exact moves_writebackOk _ h
    · exact moves_writebackFail _ _ _ h
  · exact h

theorem moves_tagWriteDone (l : Option LineId) (k : RecordKey) (ok : Bool) (h : Moves s t) : Moves s (tagWriteDone l k ok t) := by
  unfold tagWriteDone
  split
  · unfold lineTagWriteOk; split
    · exact moves_becomeClean _ (moves_updLine _ _ h)
    · exact moves_dirtied _ (moves_updLine _ _ h)
  · exact moves_offer _ (moves_dirtied _ (moves_updLine _ _ h))
  · exact h
  · exact moves_offer _ h

theorem moves_releaseOp (op : OpId) (h : Moves s t) : Moves s (releaseOp op t) :=
  moves_dropPins _ (moves_returnBuffers _ (moves_leaveBlocks _ h))

/-! ## Upstream operations -/

theorem moves_respond (i : SlotId) (st : Status) (p : Bool) (d : List Byte) (h : Moves s t) : Moves s (respond i st p d t) :=
  moves_withTu _ (moves_updSlot _ _ h)

theorem moves_freeSlot (i : SlotId) (h : Moves s t) : Moves s (freeSlot i t) := moves_updSlot _ _ h

theorem moves_endOp (i : SlotId) (st : Status) (p : Bool) (d : List Byte) (h : Moves s t) : Moves s (endOp i st p d t) := by
  unfold endOp; split
  · exact moves_freeSlot _ (moves_releaseOp _ h)
  · exact moves_respond _ _ _ _ (moves_releaseOp _ h)

theorem moves_endAbandoned (i : SlotId) (h : Moves s t) : Moves s (endAbandoned i t) := by
  unfold endAbandoned; split
  · exact moves_endOp _ _ _ _ h
  · exact h

theorem moves_postPartFault (k : RecordKind) (i : SlotId) (n : Nat) (p : Part) (h : Moves s t) :
    Moves s (postPartFault k i n p t) := by
  unfold postPartFault; split
  · exact h
  · exact moves_offer _ (moves_updPart _ _ _ h)

theorem moves_reportFailure (rec : Record) (src : Source) (r : RegionId) (b : Nat) (w : Option (RequesterId × TransactionId))
    (h : Moves s t) : Moves s (reportFailure rec src r b w t) :=
  moves_healthReport _ _ _ _ (moves_offer _ h)

theorem moves_reportRead (i : SlotId) (b : Nat) (v : Verdict) (x : Tag) (bs : List Byte) (h : Moves s t) :
    Moves s (reportRead i b v x bs t) := by
  unfold reportRead; split
  · exact moves_reportFailure _ _ _ _ _ h
  · exact h

theorem moves_endReadIfDone (i : SlotId) (h : Moves s t) : Moves s (endReadIfDone i t) := by
  unfold endReadIfDone; split
  · exact moves_endOp _ _ _ _ h
  · exact h

theorem moves_issueReads (i : SlotId) (h : Moves s t) : Moves s (issueReads i t) :=
  moves_endReadIfDone _ (moves_appendRequests _ (moves_updSlot _ _ h))

theorem moves_askBuffers (i : SlotId) (f : State → State) (hf : ∀ t, Moves s t → Moves s (f t)) (h : Moves s t) :
    Moves s (askBuffers i f t) := by
  unfold askBuffers; split
  · exact hf _ h
  · split
    · exact hf _ (moves_assignBuffers _ _ h)
    · exact moves_withObt _ (by rfl) h

theorem moves_readLookedUp (i : SlotId) (h : Moves s t) : Moves s (readLookedUp i t) := by
  unfold readLookedUp; split
  · exact h
  · exact moves_askBuffers _ _ (fun _ => moves_issueReads i) h

theorem moves_readHanded (i : SlotId) (k : Nat) (p : Part) (x : Tag) (h : Moves s t) : Moves s (readHanded i k p x t) :=
  moves_readLookedUp _ (moves_reportRead _ _ _ _ _ (moves_updPart _ _ _ h))

theorem moves_readFillFailed (i : SlotId) (k : Nat) (h : Moves s t) : Moves s (readFillFailed i k t) :=
  moves_readLookedUp _ (moves_updPart _ _ _ h)

theorem moves_finishReadPart (i : SlotId) (k : Nat) (p : Part) (h : Moves s t) : Moves s (finishReadPart i k p t) := by
  unfold finishReadPart; split
  · exact moves_reportRead _ _ _ _ _ (moves_updPart _ _ _ h)
  · exact moves_updPart _ _ _ h

theorem moves_storeRead (i : SlotId) (k n : Nat) (p : Part) (d : List Byte) (h : Moves s t) : Moves s (storeRead i k n p d t) := by
  unfold storeRead; split
  · exact moves_storeInBuffer _ _ _ _ h
  · exact moves_updPart _ _ _ h

theorem moves_readOk (i : SlotId) (k n : Nat) (p : Part) (d : List Byte) (h : Moves s t) : Moves s (readOk i k n p d t) := by
  unfold readOk; split
  · exact moves_updPart _ _ _ h
  · split
    · exact moves_finishReadPart _ _ _ (moves_updPart _ _ _ (moves_storeRead _ _ _ _ _ h))
    · exact moves_updPart _ _ _ (moves_storeRead _ _ _ _ _ h)

theorem moves_abandonedRead (i : SlotId) (k : Nat) (p : Part) (ok : Bool) (h : Moves s t) :
    Moves s (abandonedRead i k p ok t) := by
  unfold abandonedRead
  refine moves_endAbandoned _ (moves_updPart _ _ _ ?_)
  split
  · exact h
  · exact moves_postPartFault _ _ _ _ h

theorem moves_readDone (i : SlotId) (k n : Nat) (p : Part) (ok : Bool) (d : List Byte) (h : Moves s t) :
    Moves s (readDone i k n p ok d t) := by
  unfold readDone; split
  · exact moves_abandonedRead _ _ _ _ h
  · split
    · exact moves_endReadIfDone _ (moves_readOk _ _ _ _ _ h)
    · exact moves_endReadIfDone _ (moves_updPart _ _ _ (moves_postPartFault _ _ _ _ h))

theorem moves_endWrite (i : SlotId) (h : Moves s t) : Moves s (endWrite i t) := moves_endOp _ _ _ _ h

theorem moves_endWriteIfDone (i : SlotId) (h : Moves s t) : Moves s (endWriteIfDone i t) := by
  unfold endWriteIfDone; split
  · exact moves_endWrite _ h
  · exact h

theorem moves_commitWrite (i : SlotId) (h : Moves s t) : Moves s (commitWrite i t) := by
  unfold commitWrite
  refine moves_appendRequests _ (moves_updSlot _ _ (moves_foldl _ _ (fun u x hu => ?_) h))
  unfold storeMerged; split
  · exact moves_storeInBuffer _ _ _ _ hu
  · exact hu

theorem moves_decideWrite (i : SlotId) (h : Moves s t) : Moves s (decideWrite i t) := by
  unfold decideWrite; split
  · exact h
  · split
    · exact moves_endWrite _ h
    · split
      · exact moves_commitWrite _ h
      · exact h

theorem moves_reportWrite (i : SlotId) (b : Nat) (v : Verdict) (x : Tag) (bs : List Byte) (h : Moves s t) :
    Moves s (reportWrite i b v x bs t) := by
  unfold reportWrite; split
  · exact moves_reportFailure _ _ _ _ _ h
  · exact h

theorem moves_proceedWrite (i : SlotId) (h : Moves s t) : Moves s (proceedWrite i t) :=
  moves_decideWrite _ (moves_appendRequests _ (moves_updSlot _ _ h))

theorem moves_writeLookedUp (i : SlotId) (h : Moves s t) : Moves s (writeLookedUp i t) := by
  unfold writeLookedUp; split
  · exact h
  · split
    · exact moves_decideWrite _ h
    · exact moves_askBuffers _ _ (fun _ => moves_proceedWrite i) h

theorem moves_writeHanded (i : SlotId) (k : Nat) (p : Part) (x : Tag) (h : Moves s t) : Moves s (writeHanded i k p x t) :=
  moves_writeLookedUp _ (moves_reportWrite _ _ _ _ _ (moves_updPart _ _ _ h))

theorem moves_writeFillFailed (i : SlotId) (k : Nat) (h : Moves s t) : Moves s (writeFillFailed i k t) :=
  moves_writeLookedUp _ (moves_updPart _ _ _ h)

theorem moves_finishCheckPart (i : SlotId) (k : Nat) (p : Part) (h : Moves s t) : Moves s (finishCheckPart i k p t) := by
  unfold finishCheckPart; split
  · unfold verifyGuardCheck; split
    · exact moves_reportWrite _ _ _ _ _ (moves_updPart _ _ _ h)
    · exact moves_updPart _ _ _ h
  · exact moves_updPart _ _ _ h

theorem moves_storeCheck (i : SlotId) (k n : Nat) (p : Part) (d : List Byte) (h : Moves s t) :
    Moves s (storeCheck i k n p d t) := by
  unfold storeCheck; split
  · exact moves_storeInBuffer _ _ _ _ h
  · exact moves_updPart _ _ _ h

theorem moves_checkOk (i : SlotId) (k n : Nat) (p : Part) (d : List Byte) (h : Moves s t) : Moves s (checkOk i k n p d t) := by
  unfold checkOk; split
  · exact moves_updPart _ _ _ h
  · split
    · exact moves_finishCheckPart _ _ _ (moves_updPart _ _ _ (moves_storeCheck _ _ _ _ _ h))
    · exact moves_updPart _ _ _ (moves_storeCheck _ _ _ _ _ h)

theorem moves_checkDone (i : SlotId) (k n : Nat) (p : Part) (ok : Bool) (d : List Byte) (h : Moves s t) :
    Moves s (checkDone i k n p ok d t) := by
  unfold checkDone; split
  · exact moves_abandonedRead _ _ _ _ h
  · split
    · exact moves_decideWrite _ (moves_checkOk _ _ _ _ _ h)
    · exact moves_decideWrite _ (moves_updPart _ _ _ (moves_postPartFault _ _ _ _ h))

theorem moves_writeOk (i : SlotId) (k : Nat) (p : Part) (h : Moves s t) : Moves s (writeOk i k p t) := by
  unfold writeOk; split
  · split
    · exact moves_updPart _ _ _ h
    · exact moves_tagUpdate _ _ _ _ _ (moves_updPart _ _ _ h)
  · exact moves_updPart _ _ _ h

theorem moves_writeDone (i : SlotId) (k : Nat) (p : Part) (ok : Bool) (h : Moves s t) : Moves s (writeDone i k p ok t) := by
  unfold writeDone; split
  · exact moves_endWriteIfDone _ (moves_writeOk _ _ _ h)
  · exact moves_endWriteIfDone _ (moves_updPart _ _ _ (moves_postPartFault _ _ _ _ h))

theorem moves_partTagged (i : SlotId) (k : Nat) (ok : Bool) (h : Moves s t) : Moves s (partTagged i k ok t) :=
  moves_endWriteIfDone _ (moves_updPart _ _ _ h)

/-! ## The sweep -/

theorem moves_startPacing (h : Moves s t) : Moves s (startPacing t) := by
  unfold startPacing; split
  · exact moves_joinSweep h
  · exact moves_setStep _ (moves_withSu _ ⟨List.Sublist.refl _, rfl, rfl⟩ h)

theorem moves_startFinishing (r : RegionId) (h : Moves s t) : Moves s (startFinishing r t) :=
  moves_makeFlush _ _ (moves_updHeadJob _ (fun _ => rfl) h)

theorem moves_nextAction (h : Moves s t) : Moves s (nextAction t) := by
  unfold nextAction
  split
  · exact h
  · split
    · exact moves_endHeadJob _ _ h
    · split
      · split
        · exact moves_startPacing h
        · exact moves_joinSweep h
        · exact moves_joinSweep h
      · split
        · exact moves_endHeadJob _ _ h
        · exact moves_startFinishing _ h
        · exact moves_startFinishing _ h

theorem moves_advanceFrontier (j : Job) (h : Moves s t) : Moves s (advanceFrontier j t) := by
  unfold advanceFrontier
  split
  · exact moves_updRegion _ _ (Region.advance_definition _ _) h
  · exact h
  · exact h

theorem moves_endBlock (e : BlockEnd) (h : Moves s t) : Moves s (endBlock e t) := by
  unfold endBlock; split
  · exact h
  · exact moves_nextAction (moves_releaseOp _ (moves_setBlockWork _ (moves_advanceFrontier _ (moves_updHeadJob _ (fun _ => by cases e <;> rfl) h))))

theorem moves_beginBlock (h : Moves s t) : Moves s (beginBlock t) := by
  unfold beginBlock; split
  · exact h
  · exact moves_lookupTag _ _ _ _ (moves_setBlockWork _ h)

theorem moves_blankBlock (j : Job) (h : Moves s t) : Moves s (blankBlock j t) := by
  unfold blankBlock; split
  · exact moves_endBlock _ (moves_tagUpdate _ _ _ _ _ h)
  · exact moves_tagUpdate _ _ _ _ _ h

theorem moves_reportScrub (j : Job) (v : Verdict) (x : Tag) (bs : List Byte) (h : Moves s t) :
    Moves s (reportScrub j v x bs t) := moves_reportFailure _ _ _ _ _ h

theorem moves_scrubRead (j : Job) (x : Tag) (h : Moves s t) : Moves s (scrubRead j x t) :=
  moves_appendRequests _ (moves_setBlockWork _ (moves_withObt _ rfl h))

theorem moves_scrubHanded (j : Job) (x : Tag) (h : Moves s t) : Moves s (scrubHanded j x t) := by
  unfold scrubHanded; split
  · exact moves_endBlock _ h
  · exact moves_scrubRead _ _ h
  · exact moves_endBlock _ (moves_reportScrub _ _ _ _ h)

theorem moves_sweepHanded (x : Tag) (h : Moves s t) : Moves s (sweepHanded x t) := by
  unfold sweepHanded; split
  · exact h
  · split
    · split
      · exact moves_endBlock _ h
      · exact moves_blankBlock _ h
    · exact moves_scrubHanded _ _ h
    · exact moves_blankBlock _ h

theorem moves_scrubDone (j : Job) (h : Moves s t) : Moves s (scrubDone j t) := by
  unfold scrubDone; split
  · exact moves_endBlock _ h
  · split
    · exact moves_endBlock _ h
    · split
      · exact moves_endBlock _ (moves_reportScrub _ _ _ _ h)
      · exact moves_endBlock _ h

theorem moves_scrubTake (j : Job) (n : Nat) (ok : Bool) (d : List Byte) (h : Moves s t) : Moves s (scrubTake j n ok d t) := by
  unfold scrubTake; split
  · exact h
  · split
    · exact moves_withObt _ (by rfl) h
    · exact moves_offer _ (moves_setBlockWork _ h)

theorem moves_scrubCount (j : Job) (h : Moves s t) : Moves s (scrubCount j t) := by
  unfold scrubCount; split
  · exact moves_scrubDone _ (moves_setBlockWork _ h)
  · exact moves_setBlockWork _ h

theorem moves_sweepReadDone (n : Nat) (ok : Bool) (d : List Byte) (h : Moves s t) : Moves s (sweepReadDone n ok d t) := by
  unfold sweepReadDone; split
  · exact h
  · exact moves_scrubCount _ (moves_scrubTake _ _ _ _ h)

/-! ## The cascade and the completions -/

theorem moves_beginWork (op : OpId) (h : Moves s t) : Moves s (beginWork op t) := by
  unfold beginWork; split
  · split
    · exact moves_foldl _ _ (fun _ x => moves_lookupTag _ _ _ _) h
    · exact h
  · exact moves_beginBlock h

theorem moves_partHanded (i : SlotId) (k : Nat) (x : Tag) (h : Moves s t) : Moves s (partHanded i k x t) := by
  unfold partHanded; split
  · exact h
  · split
    · exact h
    · split
      · exact moves_readHanded _ _ _ _ h
      · exact moves_writeHanded _ _ _ _ h

theorem moves_partFillFailed (i : SlotId) (k : Nat) (h : Moves s t) : Moves s (partFillFailed i k t) := by
  unfold partFillFailed; split
  · exact h
  · split
    · exact h
    · split
      · exact moves_readFillFailed _ _ h
      · exact moves_writeFillFailed _ _ h

/-- One internal event is a chain of elementary changes. -/
theorem moves_runTask (k : Task) (h : Moves s t) : Moves s (runTask k t) := by
  unfold runTask
  split
  · exact moves_applyGrant _ _ h
  · exact moves_beginWork _ h
  · exact moves_partHanded _ _ _ h
  · exact moves_sweepHanded _ h
  · exact moves_partFillFailed _ _ h
  · exact moves_endBlock _ h
  · exact moves_drainCheck _ h

theorem moves_settle (n : Nat) (h : Moves s t) : Moves s (settle n t) := by
  induction n generalizing t with
  | zero => exact h
  | succ n ih =>
    unfold settle; split
    · exact h
    · exact ih (moves_runTask _ (moves_withWork _ h))

theorem moves_endReset (h : Moves s t) : Moves s (endReset t) := by
  unfold endReset; split
  · split
    · exact moves_finishCommand _ (by split <;> simp) h
    · exact h
  · exact h
  · exact h
  · exact h

/-- The whole cascade of a step is a chain of elementary changes. -/
theorem moves_run (h : Moves s t) : Moves s (run t) := moves_endReset (moves_settle _ h)

theorem moves_postPass (i : SlotId) (ok : Bool) (h : Moves s t) : Moves s (postPass i ok t) := by
  unfold postPass; split
  · exact h
  · exact moves_offer _ h

theorem moves_passDone (i : SlotId) (ok : Bool) (d : List Byte) (h : Moves s t) : Moves s (passDone i ok d t) := by
  unfold passDone
  split <;> first
    | exact h
    | exact moves_respond _ _ _ _ (moves_postPass _ _ h)
    | exact moves_freeSlot _ (moves_postPass _ _ h)

theorem moves_partDone (k : ReqKind) (i : SlotId) (p n : Nat) (ok : Bool) (d : List Byte) (h : Moves s t) :
    Moves s (partDone k i p n ok d t) := by
  unfold partDone; split
  · exact h
  · split
    · exact moves_readDone _ _ _ _ _ _ h
    · exact moves_writeDone _ _ _ _ h
    · exact moves_checkDone _ _ _ _ _ _ h

theorem moves_makerTagged (m : OpId) (p : Nat) (ok : Bool) (h : Moves s t) : Moves s (makerTagged m p ok t) := by
  unfold makerTagged; split
  · exact moves_partTagged _ _ _ h
  · exact moves_endBlock _ h

/-- A completion handed to its issuer is a chain of elementary changes. -/
theorem moves_complete (q : Request) (ok : Bool) (d : List Byte) (h : Moves s t) : Moves s (complete q ok d t) := by
  unfold complete; split
  · exact moves_partDone _ _ _ _ _ _ h
  · exact moves_passDone _ _ _ h
  · exact moves_sweepReadDone _ _ _ h
  · exact moves_lineDone _ _ _ h
  · exact moves_makerTagged _ _ _ (moves_tagWriteDone _ _ _ h)

/-! ## Requests, buffers, abandonment -/

theorem moves_refuse (i : SlotId) (st : Status) (r : Option RegionId) (b : Option Nat) (h : Moves s t) :
    Moves s (refuse i st r b t) := moves_offer _ (moves_respond _ _ _ _ h)

theorem moves_enqueue (i : SlotId) (r : RegionId) (h : Moves s t) : Moves s (enqueue i r t) :=
  moves_withObt _ rfl (moves_updSlot _ _ h)

theorem moves_dispatchSlot (i : SlotId) (l : Lookup) (h : Moves s t) : Moves s (dispatchSlot i l t) := by
  unfold dispatchSlot; split
  · exact moves_refuse _ _ _ _ h
  · exact moves_enqueue _ _ h
  · exact h
  · exact moves_appendRequest _ (moves_updSlot _ _ h)

theorem moves_arrive (sl : Slot) (h : Moves s t) : Moves s (arrive sl t) := by
  unfold arrive; split
  · exact h
  · split
    · exact h
    · exact moves_dispatchSlot _ _ (moves_updSlot _ _ h)

theorem moves_proceed (i : SlotId) (h : Moves s t) : Moves s (proceed i t) := by
  unfold proceed; split
  · exact moves_issueReads _ h
  · exact moves_proceedWrite _ h

theorem moves_examineBuffers (n : Nat) (h : Moves s t) : Moves s (examineBuffers n t) := by
  induction n generalizing t with
  | zero => exact h
  | succ n ih =>
    unfold examineBuffers; split
    · exact h
    · split
      · exact ih (moves_proceed _ (moves_assignBuffers _ _ (moves_withObt _ (by rfl) h)))
      · exact h

theorem moves_markAbandoned (i : SlotId) (h : Moves s t) : Moves s (markAbandoned i t) := moves_updSlot _ _ h

theorem moves_abandonActive (i : SlotId) (h : Moves s t) : Moves s (abandonActive i t) := by
  unfold abandonActive; split
  · exact moves_freeSlot _ (moves_leaveBlocks _ h)
  · split
    · exact moves_markAbandoned _ h
    · exact moves_endAbandoned _ (moves_withObt _ (by rfl) (moves_markAbandoned _ h))

theorem moves_abandonSlot (i : SlotId) (h : Moves s t) : Moves s (abandonSlot t i) := by
  unfold abandonSlot
  split <;> first
    | exact h
    | exact moves_freeSlot _ (moves_withObt _ (by rfl) h)
    | exact moves_freeSlot _ (moves_withTu _ h)
    | exact moves_abandonActive _ h
    | exact moves_markAbandoned _ h

theorem moves_abandonAll (h : Moves s t) : Moves s (abandonAll t) := moves_foldl _ _ (fun _ i => moves_abandonSlot i) h

end Sys2Proof.Machine
end

