-- ==== Sys2Proof/Laws/Kept.lean ====
section
/-! SUPPORT. What a cascade keeps: for each part of the state that no internal event writes, and for each law of Safety.lean that
every internal event keeps, one lemma over `Moves`. -/

namespace Sys2Proof.Machine

variable {s t : State}

/-! ## Parts of the state no cascade writes -/

/-- A cascade drives no pin, sends nothing on a port, takes no free value and no queued command. -/
theorem Moves.outside (h : Moves s t) : t.pins = s.pins ∧ t.out = s.out ∧ t.free = s.free ∧ t.pending = s.pending := by
  induction h with
  | refl => exact ⟨rfl, rfl, rfl, rfl⟩
  | step _ m ih => cases m <;> exact ih

theorem Moves.pins (h : Moves s t) : t.pins = s.pins := h.outside.1
theorem Moves.out (h : Moves s t) : t.out = s.out := h.outside.2.1
theorem Moves.free (h : Moves s t) : t.free = s.free := h.outside.2.2.1
theorem Moves.pending (h : Moves s t) : t.pending = s.pending := h.outside.2.2.2

/-- A cascade writes the mailbox's state, result code and command alone in the Management Port. -/
theorem Moves.mp (h : Moves s t) : s.mp.Keeps t.mp := by
  induction h with
  | refl => exact ⟨⟨rfl, rfl, rfl, rfl, rfl, rfl, rfl⟩, .inl ⟨rfl, rfl⟩, id⟩
  | step _ m ih =>
    cases m with
    | mp x k =>
      obtain ⟨⟨a1, a2, a3, a4, a5, a6, a7⟩, a8, a9⟩ := ih
      obtain ⟨⟨b1, b2, b3, b4, b5, b6, b7⟩, b8, b9⟩ := k
      refine ⟨⟨b1.trans a1, b2.trans a2, b3.trans a3, b4.trans a4, b5.trans a5, b6.trans a6, b7.trans a7⟩, ?_,
        fun x => b9 (a9 x)⟩
      rcases b8 with b8 | b8
      · rcases a8 with a8 | a8
        · exact .inl ⟨b8.1.trans a8.1, b8.2.trans a8.2⟩
        · refine .inr ⟨b8.1.trans a8.1, ?_⟩
          rw [withMp_mp, b8.2]; exact a8.2
      · exact .inr b8
    | _ => exact ih

/-- A cascade keeps the Requester Map, the unmapped policy and every region's definition. -/
theorem Moves.ru (h : Moves s t) : s.ru.Keeps t.ru := by
  induction h with
  | refl => exact ⟨rfl, rfl, fun _ => rfl⟩
  | step _ m ih =>
    cases m with
    | ru x k => exact ⟨k.1.trans ih.1, k.2.1.trans ih.2.1, fun r => (k.2.2 r).trans (ih.2.2 r)⟩
    | _ => exact ih

/-- A cascade keeps a region's definition. -/
theorem Moves.definition (h : Moves s t) (r : RegionId) : (t.region r).definition = (s.region r).definition := h.ru.2.2 r

/-- A cascade only takes jobs out of the queue, and keeps the pacing interval and the job ID counter. -/
theorem Moves.su (h : Moves s t) : s.su.Keeps t.su := by
  induction h with
  | refl => exact ⟨List.Sublist.refl _, rfl, rfl⟩
  | step _ m ih =>
    cases m with
    | su x k => exact ⟨k.1.trans ih.1, k.2.1.trans ih.2.1, k.2.2.trans ih.2.2⟩
    | _ => exact ih

/-- A cascade never lengthens the job queue. -/
theorem Moves.jobs_length (h : Moves s t) : t.su.jobs.length ≤ s.su.jobs.length := by
  simpa using h.su.1.length_le

/-- A cascade keeps the law of the job queue (R113). -/
theorem Moves.jobsLaw (h : Moves s t) (k : jobsLaw s) : jobsLaw t := by
  obtain ⟨h1, h2, h3⟩ := h.su
  obtain ⟨k1, k2, k3, k4⟩ := k
  exact ⟨Nat.le_trans h.jobs_length k1, h1.nodup k2, fun m => k3 (h1.subset m), by rw [h3]; exact k4⟩

/-! ## What a region's definition decides -/

/-- The locked part of a record is part of its definition. -/
theorem Region.lockedPart_of_definition {g h : Region} (e : g.definition = h.definition) : g.lockedPart = h.lockedPart := by
  simp only [Region.definition, Region.mk.injEq] at e
  simp [Region.lockedPart, e]

/-- A record's definition gives every field that the statements call its definition. -/
theorem Region.sameDefinition_of_definition {g h : Region} (e : g.definition = h.definition) : g.sameDefinition h := by
  have l := Region.lockedPart_of_definition e
  simp only [Region.definition, Region.mk.injEq] at e
  simp [Region.sameDefinition, l, e]

/-- A cascade keeps every region's definition, field by field. -/
theorem Moves.sameDefinition (h : Moves s t) (r : RegionId) : (t.region r).sameDefinition (s.region r) :=
  Region.sameDefinition_of_definition (h.definition r)

/-- Being defined is part of a record's definition. -/
theorem Region.isDefined_of_definition {g h : Region} (e : g.definition = h.definition) : g.isDefined = h.isDefined := by
  simp only [Region.definition, Region.mk.injEq] at e
  obtain ⟨e, _⟩ := e
  unfold Region.isDefined
  have k : (g.state = .empty) ↔ (h.state = .empty) := by
    by_cases hg : g.state = .empty <;> by_cases hh : h.state = .empty <;> simp_all
  by_cases hg : g.state = .empty
  · rw [hg, k.mp hg]
  · rw [bne_iff_ne.mpr hg, bne_iff_ne.mpr fun x => hg (k.mpr x)]

/-- Conflicts are decided by definitions (R12). -/
theorem Region.conflicts_of_definition {g g' h h' : Region} (e : g'.definition = g.definition) (k : h'.definition = h.definition) :
    g'.conflicts h' = g.conflicts h := by
  have d := Region.isDefined_of_definition k
  simp only [Region.definition, Region.mk.injEq] at e k
  simp [Region.conflicts, d, Region.tagBytes, e, k]

/-- A cascade keeps the regions disjoint (R12). -/
theorem Moves.regionsDisjoint (h : Moves s t) (k : regionsDisjoint s) : regionsDisjoint t := by
  intro r q ne d
  rw [Region.conflicts_of_definition (h.definition r) (h.definition q)]
  exact k r q ne (by rw [← Region.isDefined_of_definition (h.definition r)]; exact d)

/-! ## The Event Log -/

/-- The last record of a log stands one below the counter. -/
theorem seqOk_append (c : BitVec 16) (l : List Record) (r : Record) (h : seqOk c l) :
    seqOk (c + 1) (l ++ [{ r with seq := c, repeatCount := 1 }]) := by
  induction l with
  | nil => simp [seqOk]
  | cons a l ih =>
    cases l with
    | nil => exact ⟨h, rfl⟩
    | cons b l => exact ⟨h.1, ih h.2⟩

@[simp] theorem changeTail_cons_cons (f : Record → Record) (a b : Record) (l : List Record) :
    changeTail f (a :: b :: l) = a :: changeTail f (b :: l) := rfl

theorem changeTail_length (f : Record → Record) (l : List Record) : (changeTail f l).length = l.length := by
  induction l with
  | nil => rfl
  | cons a l ih =>
    cases l with
    | nil => rfl
    | cons b l => simpa [changeTail] using ih

/-- Changing a log's tail without its sequence number keeps the numbering. -/
theorem seqOk_changeTail (c : BitVec 16) (f : Record → Record) (hf : ∀ r, (f r).seq = r.seq) (l : List Record) (h : seqOk c l) :
    seqOk c (changeTail f l) := by
  induction l with
  | nil => exact h
  | cons a l ih =>
    cases l with
    | nil => simpa [changeTail, seqOk, hf] using h
    | cons b l =>
      have := ih h.2
      cases l with
      | nil => exact ⟨by simpa [hf] using h.1, this⟩
      | cons d l => exact ⟨h.1, this⟩

/-- A record of a changed tail is an old record or a changed one. -/
theorem mem_changeTail {f : Record → Record} {l : List Record} {x : Record} (h : x ∈ changeTail f l) :
    x ∈ l ∨ ∃ r ∈ l, x = f r := by
  induction l with
  | nil => cases h
  | cons a l ih =>
    cases l with
    | nil =>
      rw [changeTail, List.mem_singleton] at h
      exact .inr ⟨a, List.mem_cons_self, h⟩
    | cons b l =>
      rw [changeTail_cons_cons, List.mem_cons] at h
      rcases h with h | h
      · exact .inl (h ▸ List.mem_cons_self)
      · rcases ih h with h | ⟨r, hr, h⟩
        · exact .inl (List.mem_cons_of_mem _ h)
        · exact .inr ⟨r, List.mem_cons_of_mem _ hr, h⟩

theorem saturateRepeat_range {n : Nat} (h : 1 ≤ n ∧ n ≤ 255) : 1 ≤ saturateRepeat n ∧ saturateRepeat n ≤ 255 := by
  unfold saturateRepeat; split <;> omega

/-- Offering a record keeps Law 11. -/
theorem EventLog.Law.offer {e : EventLog} (h : e.Law) (r : Record) : (e.offer r).Law := by
  obtain ⟨h1, h2, h3⟩ := h
  unfold EventLog.offer
  split
  · exact ⟨h1, h2, h3⟩
  · split
    · refine ⟨by simpa [EventLog.merge, changeTail_length] using h1, ?_, ?_⟩
      · exact seqOk_changeTail e.seq (fun r => { r with repeatCount := saturateRepeat r.repeatCount }) (fun _ => rfl) _ h2
      intro x hx
      rcases mem_changeTail hx with hx | ⟨y, hy, rfl⟩
      · exact h3 x hx
      · exact saturateRepeat_range (h3 y hy)
    · split
      · next hl =>
        refine ⟨by simpa [EventLog.append, EventLog.refresh, Config.logCapacity] using Nat.succ_le_of_lt hl, seqOk_append _ _ _ h2, ?_⟩
        intro x hx
        simp only [EventLog.append, EventLog.refresh, List.mem_append, List.mem_singleton] at hx
        rcases hx with hx | rfl
        · exact h3 x hx
        · simp
      · exact ⟨h1, h2, h3⟩

/-- A cascade keeps Law 11. -/
theorem Moves.logLaw (h : Moves s t) (k : logLaw s) : logLaw t := by
  induction h with
  | refl => exact k
  | @step u v h m ih =>
    cases m with
    | offer r => exact EventLog.Law.offer (e := u.el) ih r
    | _ => exact ih

theorem any_changeTail (f : Record → Record) (p : Record → Bool) (hf : ∀ r, p (f r) = p r) (l : List Record) :
    (changeTail f l).any p = l.any p := by
  induction l with
  | nil => rfl
  | cons a l ih =>
    cases l with
    | nil => simp [changeTail, hf]
    | cons b l => rw [changeTail_cons_cons, List.any_cons, ih, List.any_cons (l := b :: l)]

/-- Offering a record keeps ALERT# at its condition (R176). -/
theorem EventLog.offer_alert {e : EventLog} (h : e.alert = e.condition) (r : Record) :
    (e.offer r).alert = (e.offer r).condition := by
  unfold EventLog.offer
  split
  · exact h
  · split
    · rw [show e.merge.alert = e.alert from rfl, h]
      unfold EventLog.condition EventLog.merge
      simp only
      rw [any_changeTail (fun r => { r with repeatCount := saturateRepeat r.repeatCount })
        (fun r => vget e.alertMask r.kind.number) (fun _ => rfl)]
    · split <;> rfl

/-- A cascade keeps ALERT# at its condition (R176). -/
theorem Moves.alert (h : Moves s t) (k : s.el.alert = s.el.condition) : t.el.alert = t.el.condition := by
  induction h with
  | refl => exact k
  | step _ m ih =>
    cases m with
    | offer r => exact EventLog.offer_alert ih r
    | _ => exact ih

/-- Offering a record keeps the masks. -/
theorem EventLog.offer_masks (e : EventLog) (r : Record) :
    (e.offer r).logMask = e.logMask ∧ (e.offer r).alertMask = e.alertMask := by
  unfold EventLog.offer
  split
  · exact ⟨rfl, rfl⟩
  · split
    · exact ⟨rfl, rfl⟩
    · split <;> exact ⟨rfl, rfl⟩

/-- A cascade keeps the log mask and the alert mask. -/
theorem Moves.masks (h : Moves s t) : t.el.logMask = s.el.logMask ∧ t.el.alertMask = s.el.alertMask := by
  induction h with
  | refl => exact ⟨rfl, rfl⟩
  | @step u v h m ih =>
    cases m with
    | offer r => exact ⟨(u.el.offer_masks r).1.trans ih.1, (u.el.offer_masks r).2.trans ih.2⟩
    | _ => exact ih

/-! ## The Memory Arbiter -/

/-- A cascade keeps a downstream tag's state and timers, and whether it carries a request. -/
theorem Moves.downTag (h : Moves s t) (d : DownTagId) :
    (t.downTag d).state = (s.downTag d).state ∧ (t.downTag d).timeout = (s.downTag d).timeout ∧
      (t.downTag d).responseTimer = (s.downTag d).responseTimer ∧
      (t.downTag d).quarantineTimer = (s.downTag d).quarantineTimer ∧
      (t.downTag d).request.isSome = (s.downTag d).request.isSome := by
  induction h with
  | refl => exact ⟨rfl, rfl, rfl, rfl, rfl⟩
  | @step u v h m ih =>
    cases m with
    | append q =>
      have e : (appendRequest q u).ma.tags = u.ma.tags := by
        unfold appendRequest MemoryArbiter.append; cases q.cls <;> rfl
      unfold State.downTag at ih ⊢
      rw [e]; exact ih
    | detach l =>
      simpa [detachLine, State.downTag, MemoryArbiter.mapRequests] using ih
    | _ => exact ih

/-- A cascade keeps the fields of the tags in agreement with their states. -/
theorem Moves.tagsLaw (h : Moves s t) (k : tagsLaw s) : tagsLaw t := by
  intro d
  have a := h.downTag d
  have b := k d
  generalize hx : t.downTag d = x at a ⊢
  generalize s.downTag d = y at a b
  obtain ⟨xs, xr, xt, xa, xb⟩ := x
  obtain ⟨ys, yr, yt, ya, yb⟩ := y
  simp only at a
  obtain ⟨rfl, rfl, rfl, rfl, e⟩ := a
  unfold DownTag.consistent at b ⊢
  cases xs with
  | free =>
    simp only [DownTag.powerOn, DownTag.mk.injEq] at b ⊢
    obtain ⟨_, hb, h1, h2, h3⟩ := b
    subst hb
    refine ⟨trivial, ?_, h1, h2, h3⟩
    cases xr with
    | none => rfl
    | some q => simp at e
  | inFlight => simp only at b ⊢; exact ⟨e.trans b.1, b.2⟩
  | quarantined => simp only at b ⊢; exact ⟨e.trans b.1, b.2⟩

/-- A cascade keeps the response timeout, the sweep share and its counter. -/
theorem Moves.arbiter (h : Moves s t) :
    t.ma.timeout = s.ma.timeout ∧ t.ma.share = s.ma.share ∧ t.ma.shareCounter = s.ma.shareCounter := by
  induction h with
  | refl => exact ⟨rfl, rfl, rfl⟩
  | step _ m ih =>
    cases m with
    | append q =>
      unfold appendRequest MemoryArbiter.append
      cases q.cls <;> exact ih
    | _ => exact ih

/-! ## The Open Block Table -/

/-- Joining a block keeps the law of the entries. -/
theorem EntriesLaw.join {es : List Entry} (h : EntriesLaw es) (op : OpId) (m : Mode) (r : RegionId) (b : Nat) :
    EntriesLaw (joinEntries op m r b es) := by
  obtain ⟨h1, h2⟩ := h
  unfold joinEntries
  split
  · refine ⟨fun e he => ?_, ?_⟩
    · obtain ⟨x, hx, rfl⟩ := List.mem_map.mp he
      obtain ⟨o, a⟩ := h1 x hx
      split
      · exact ⟨by simp [Entry.occupied], a⟩
      · exact ⟨o, a⟩
    · rw [List.map_map]
      have : (Entry.key ∘ fun e : Entry => if e.isFor r b = true then { e with waiters := e.waiters ++ [(op, m)] } else e)
          = Entry.key := by
        funext e; simp only [Function.comp]; split <;> rfl
      rw [this]; exact h2
  · next hn =>
    refine ⟨fun e he => ?_, ?_⟩
    · rcases List.mem_append.mp he with he | he
      · exact h1 e he
      · rw [List.mem_singleton] at he
        subst he
        exact ⟨by simp [Entry.occupied], by simp [Entry.exclusiveAlone]⟩
    · rw [List.map_append, List.nodup_append]
      refine ⟨h2, by simp, ?_⟩
      intro a ha c hc e
      obtain ⟨x, hx, rfl⟩ := List.mem_map.mp ha
      simp only [List.map_cons, List.map_nil, List.mem_singleton] at hc
      subst hc
      apply hn
      rw [List.any_eq_true]
      refine ⟨x, hx, ?_⟩
      simp only [Entry.key, Prod.mk.injEq] at e
      simp [Entry.isFor, e]

/-- Every element taken while a condition holds meets it. -/
theorem mem_takeWhile {α : Type} (p : α → Bool) (l : List α) (x : α) (h : x ∈ l.takeWhile p) : p x = true := by
  induction l with
  | nil => cases h
  | cons a l ih =>
    rw [List.takeWhile_cons] at h
    split at h
    · next pa =>
      rcases List.mem_cons.mp h with h | h
      · exact h ▸ pa
      · exact ih h
    · cases h

/-- The grant rule keeps an entry's key, keeps it occupied, and grants an exclusive holder only alone (R45). -/
theorem Entry.grant_spec (e : Entry) (o : e.occupied = true) (a : e.exclusiveAlone) :
    e.grant.1.key = e.key ∧ e.grant.1.occupied = true ∧ e.grant.1.exclusiveAlone := by
  unfold Entry.grant
  split
  · exact ⟨rfl, o, a⟩
  · split
    · exact ⟨rfl, by simp [Entry.occupied], by simp [Entry.exclusiveAlone]⟩
    · exact ⟨rfl, o, a⟩
  · next w rest hw =>
    split
    · exact ⟨rfl, o, a⟩
    · next hx =>
      refine ⟨rfl, by simp [Entry.occupied, hw], ?_⟩
      intro x hx' ex
      exfalso
      rcases List.mem_append.mp hx' with hm | hm
      · apply hx
        rw [List.any_eq_true]
        exact ⟨x, hm, by simp [ex]⟩
      · have := mem_takeWhile _ _ _ hm
        rw [ex] at this
        simp at this

/-- The grant rule on a block keeps the law of the entries. -/
theorem EntriesLaw.grant {es : List Entry} (h : EntriesLaw es) (r : RegionId) (b : Nat) (e : Entry)
    (he : es.find? (Entry.isFor r b) = some e) : EntriesLaw (es.map fun x => if x.isFor r b then e.grant.1 else x) := by
  obtain ⟨h1, h2⟩ := h
  have hm := List.mem_of_find?_eq_some he
  have hk := List.find?_some he
  obtain ⟨g1, g2, g3⟩ := e.grant_spec (h1 e hm).1 (h1 e hm).2
  refine ⟨fun x hx => ?_, ?_⟩
  · obtain ⟨y, hy, rfl⟩ := List.mem_map.mp hx
    split
    · exact ⟨g2, g3⟩
    · exact h1 y hy
  · rw [List.map_map]
    have : (Entry.key ∘ fun x : Entry => if x.isFor r b = true then e.grant.1 else x) = Entry.key := by
      funext x
      simp only [Function.comp]
      split
      · next hx =>
        rw [g1]
        simp only [Entry.isFor, Bool.and_eq_true, beq_iff_eq] at hx hk
        simp [Entry.key, hx, hk]
      · rfl
    rw [this]; exact h2

/-- Leaving every block keeps the law of the entries. -/
theorem EntriesLaw.leave {es : List Entry} (h : EntriesLaw es) (op : OpId) :
    EntriesLaw ((es.map (Entry.without op)).filter Entry.occupied) := by
  obtain ⟨h1, h2⟩ := h
  refine ⟨fun x hx => ?_, ?_⟩
  · obtain ⟨hx, o⟩ := List.mem_filter.mp hx
    obtain ⟨y, hy, rfl⟩ := List.mem_map.mp hx
    refine ⟨o, fun z hz ez => ?_⟩
    obtain ⟨hz, hop⟩ := List.mem_filter.mp hz
    have := (h1 y hy).2 z hz ez
    simp only [Entry.without, this]
    simp only [List.filter_cons, hop, if_true, List.filter_nil]
  · refine List.Nodup.sublist (List.Sublist.map _ List.filter_sublist) ?_
    rw [List.map_map]
    exact h2

/-- A cascade keeps the law of the entries (R35 to R37). -/
theorem Moves.entriesLaw (h : Moves s t) (k : entriesLaw s) : entriesLaw t := by
  induction h with
  | refl => exact k
  | step _ m ih =>
    cases m with
    | obt x e =>
      unfold Machine.entriesLaw at ih ⊢
      rw [withObt_obt, e]; exact ih
    | join m r b => exact EntriesLaw.join ih .sweep m r b
    | grant r b e he => exact EntriesLaw.grant ih r b e he
    | leave op => exact EntriesLaw.leave ih op
    | append q => exact ih
    | _ => exact ih

/-! ## The number of upstream entries (R36) -/

/-- The number of upstream entries of a list. -/
def upstreamCount (es : List Entry) : Nat := es.countP Entry.isUpstream

/-- A map that makes no entry upstream that was not keeps the count from rising. -/
theorem upstreamCount_map_le (es : List Entry) (f : Entry → Entry)
    (hf : ∀ e ∈ es, (f e).isUpstream = true → e.isUpstream = true) : upstreamCount (es.map f) ≤ upstreamCount es := by
  induction es with
  | nil => exact Nat.le_refl _
  | cons e es ih =>
    have h1 := ih fun x hx => hf x (List.mem_cons_of_mem _ hx)
    have h2 := hf e List.mem_cons_self
    unfold upstreamCount at h1 ⊢
    rw [List.map_cons, List.countP_cons, List.countP_cons]
    by_cases a : (f e).isUpstream = true
    · rw [if_pos a, if_pos (h2 a)]; omega
    · rw [if_neg a]; omega

/-- The sweep's joining adds no upstream entry. -/
theorem upstreamCount_joinSweep (m : Mode) (r : RegionId) (b : Nat) (es : List Entry) :
    upstreamCount (joinEntries .sweep m r b es) ≤ upstreamCount es := by
  unfold joinEntries; split
  · refine upstreamCount_map_le _ _ fun e _ => ?_
    split
    · simp [Entry.isUpstream, OpId.isUpstream]
    · exact id
  · simp [upstreamCount, Entry.isUpstream, OpId.isUpstream]

/-- The grant rule makes no entry upstream that was not. -/
theorem Entry.grant_upstream (e : Entry) : e.grant.1.isUpstream = true → e.isUpstream = true := by
  unfold Entry.grant
  split
  · exact id
  · next op rest hw =>
    split
    · simp only [Entry.isUpstream, List.any_cons, List.any_nil, Bool.or_false, hw]
      intro h
      simp only [Bool.or_eq_true] at h ⊢
      rcases h with h | h <;> simp [h]
    · exact id
  · next w rest hw =>
    split
    · exact id
    · simp only [Entry.isUpstream, List.any_append]
      rw [Bool.or_assoc, ← List.any_append, List.takeWhile_append_dropWhile]
      exact id

/-- Two members of a list with equal images are equal, when no image occurs twice. -/
theorem eq_of_nodup_map {α β : Type} (f : α → β) {l : List α} (h : (l.map f).Nodup) {x y : α} (hx : x ∈ l) (hy : y ∈ l)
    (e : f x = f y) : x = y := by
  induction l with
  | nil => cases hx
  | cons a l ih =>
    rw [List.map_cons, List.nodup_cons] at h
    rcases List.mem_cons.mp hx with hx | hx <;> rcases List.mem_cons.mp hy with hy | hy
    · rw [hx, hy]
    · exact absurd (List.mem_map.mpr ⟨y, hy, by rw [← e, hx]⟩) h.1
    · exact absurd (List.mem_map.mpr ⟨x, hx, by rw [e, hy]⟩) h.1
    · exact ih h.2 hx hy

/-- A cascade never raises U, given the law of the entries (R36). -/
theorem Moves.upstream (h : Moves s t) (k : Machine.entriesLaw s) : t.obt.upstream ≤ s.obt.upstream := by
  induction h with
  | refl => exact Nat.le_refl _
  | @step u v h m ih =>
    cases m with
    | obt x e =>
      refine Nat.le_trans (Nat.le_of_eq ?_) ih
      unfold OpenBlockTable.upstream
      rw [withObt_obt, e]
    | join m r b => exact Nat.le_trans (upstreamCount_joinSweep _ _ _ _) ih
    | grant r b e he =>
      refine Nat.le_trans (upstreamCount_map_le _ _ fun x hx => ?_) ih
      split
      · next hk =>
        intro hu
        have hl := (h.entriesLaw k).2
        have hx' := List.mem_of_find?_eq_some he
        have hk' := List.find?_some he
        have : x = e := by
          refine eq_of_nodup_map Entry.key hl hx hx' ?_
          simp only [Entry.isFor, Bool.and_eq_true, beq_iff_eq] at hk hk'
          simp [Entry.key, hk, hk']
        subst this
        exact x.grant_upstream hu
      · exact id
    | leave op =>
      refine Nat.le_trans ?_ ih
      refine Nat.le_trans (List.Sublist.countP_le List.filter_sublist) (upstreamCount_map_le _ _ fun x _ => ?_)
      simp only [Entry.isUpstream, Entry.without, List.any_filter, Bool.or_eq_true, List.any_eq_true, Bool.and_eq_true]
      rintro (⟨y, hy, _, h⟩ | ⟨y, hy, _, h⟩)
      · exact .inl ⟨y, hy, h⟩
      · exact .inr ⟨y, hy, h⟩
    | _ => exact ih

end Sys2Proof.Machine
end

