-- ==== Sys2Proof/Laws/Mailbox.lean ====
section
/-! SUPPORT. A mailbox command on the bus, said once: the byte of its code reaches its owner with the parameters copied, a command
that ends changes the mailbox alone, and a cascade with nothing to take is nothing. -/

namespace Sys2Proof.Machine

/-! ## The cascade with nothing to take -/

/-- With no internal event waiting, nothing is taken. -/
theorem settle_nil (n : Nat) (s : State) (h : s.work = []) : settle n s = s := by
  cases n with
  | zero => rfl
  | succ n => simp [settle, h]

/-- With no internal event waiting, a cascade only looks for the end of an engine reset. -/
theorem run_nil (s : State) (h : s.work = []) : run s = endReset s := by rw [run, settle_nil _ s h]

/-- Without an engine reset in progress, there is no end of one. -/
theorem endReset_none (s : State) (h : ∀ d, s.mp.long ≠ some (.resetEngine d)) : endReset s = s := by
  unfold endReset
  split
  · next d e => exact absurd e (h d)
  · rfl
  · rfl
  · rfl

/-- A cascade with nothing to take and no engine reset in progress changes nothing. -/
theorem run_quiet (s : State) (h : s.work = []) (k : s.mp.long = none) : run s = s := by
  rw [run_nil s h, endReset_none s (by simp [k])]

/-! ## The bus byte of a command -/

/-- A byte written at an offset: it is acknowledged, the offset rises, and the register there takes it (R180). -/
theorem takeByte_write (s : State) (off v : Byte) (h : s.writingAt off) : takeByte v s = writeRegister off v s.acked := by
  obtain ⟨h1, h2, h3⟩ := h
  unfold takeByte
  rw [if_neg (by simp [h1]), h2]
  show writeRegister s.mp.offset v (acceptData s) = _
  rw [h3]
  rfl

/-- A command code on the bus with the mailbox ready: the byte acknowledged, the command handed over and taken by its owner. -/
theorem takeByte_command (s : State) (h : s.takesCommand) (code : Byte) :
    takeByte code s = runCommand ⟨code, s.mp.params⟩ (handOver code s.acked) := by
  rw [takeByte_write s 0x12 code h.1]
  show writeCommand code s.acked = _
  exact if_neg h.2

/-- A command that ends with nothing but its result. -/
theorem finish_handOver (s : State) (code : Byte) (r : ResultCode) : finishCommand r (handOver code s.acked) = s.ended r := rfl

/-- A long command accepted. -/
theorem startLong_handOver (s : State) (code : Byte) (c : LongCommand) :
    startLong c (handOver code s.acked) = s.started code c := rfl

/-- A command's field is the parameter registers' as they stood. -/
theorem field_param (s : State) (code : Byte) (off n : Nat) : (⟨code, s.mp.params⟩ : Command).field off n = s.param off n := rfl

/-- The region a command names. -/
theorem regionField_some (s : State) (code : Byte) (r : RegionId) (h : s.param 0 1 = r.val) :
    (⟨code, s.mp.params⟩ : Command).regionField = some r := by
  simp [Command.regionField, field_param, index?, h]

/-- A region index outside 0 to 15. -/
theorem regionField_none (s : State) (code : Byte) (h : 16 ≤ s.param 0 1) :
    (⟨code, s.mp.params⟩ : Command).regionField = none := by
  simp [Command.regionField, field_param, index?, Nat.not_lt.mpr h]

section
variable (s : State) (code : Byte)
@[simp] theorem handOver_tu : (handOver code s).tu = s.tu := rfl
@[simp] theorem handOver_ru : (handOver code s).ru = s.ru := rfl
@[simp] theorem handOver_obt : (handOver code s).obt = s.obt := rfl
@[simp] theorem handOver_tc : (handOver code s).tc = s.tc := rfl
@[simp] theorem handOver_su : (handOver code s).su = s.su := rfl
@[simp] theorem handOver_ma : (handOver code s).ma = s.ma := rfl
@[simp] theorem handOver_el : (handOver code s).el = s.el := rfl
@[simp] theorem handOver_pins : (handOver code s).pins = s.pins := rfl
@[simp] theorem handOver_out : (handOver code s).out = s.out := rfl
@[simp] theorem handOver_free : (handOver code s).free = s.free := rfl
@[simp] theorem handOver_work : (handOver code s).work = s.work := rfl
@[simp] theorem handOver_pending : (handOver code s).pending = s.pending := rfl
@[simp] theorem handOver_region (r : RegionId) : (handOver code s).region r = s.region r := rfl
@[simp] theorem handOver_slot (i : SlotId) : (handOver code s).slot i = s.slot i := rfl
@[simp] theorem handOver_line (l : LineId) : (handOver code s).line l = s.line l := rfl
@[simp] theorem acked_tu : s.acked.tu = s.tu := rfl
@[simp] theorem acked_ru : s.acked.ru = s.ru := rfl
@[simp] theorem acked_obt : s.acked.obt = s.obt := rfl
@[simp] theorem acked_tc : s.acked.tc = s.tc := rfl
@[simp] theorem acked_su : s.acked.su = s.su := rfl
@[simp] theorem acked_ma : s.acked.ma = s.ma := rfl
@[simp] theorem acked_el : s.acked.el = s.el := rfl
@[simp] theorem acked_pins : s.acked.pins = s.pins := rfl
@[simp] theorem acked_free : s.acked.free = s.free := rfl
@[simp] theorem acked_work : s.acked.work = s.work := rfl
@[simp] theorem acked_pending : s.acked.pending = s.pending := rfl
@[simp] theorem acked_region (r : RegionId) : s.acked.region r = s.region r := rfl
@[simp] theorem acked_slot (i : SlotId) : s.acked.slot i = s.slot i := rfl
@[simp] theorem acked_line (l : LineId) : s.acked.line l = s.line l := rfl
end

/-! ## Each command, handed to its owner (R181, 12.4.2) -/

section
variable (s : State) (h : s.takesCommand)
include h
theorem exec_defineRegion : exec .defineRegion s = .next (cmdDefineRegion ⟨0x01, s.mp.params⟩ (handOver 0x01 s.acked)) :=
  congrArg Host.Outcome.next (takeByte_command s h 0x01)
theorem exec_clearRegion : exec .clearRegion s = .next (cmdClearRegion ⟨0x02, s.mp.params⟩ (handOver 0x02 s.acked)) :=
  congrArg Host.Outcome.next (takeByte_command s h 0x02)
theorem exec_queryRegion : exec .queryRegion s = .next (cmdQueryRegion ⟨0x03, s.mp.params⟩ (handOver 0x03 s.acked)) :=
  congrArg Host.Outcome.next (takeByte_command s h 0x03)
theorem exec_setAccess : exec .setAccess s = .next (cmdSetAccess ⟨0x04, s.mp.params⟩ (handOver 0x04 s.acked)) :=
  congrArg Host.Outcome.next (takeByte_command s h 0x04)
theorem exec_mapRequester : exec .mapRequester s = .next (cmdMapRequester ⟨0x05, s.mp.params⟩ (handOver 0x05 s.acked)) :=
  congrArg Host.Outcome.next (takeByte_command s h 0x05)
theorem exec_setUnmappedPolicy : exec .setUnmappedPolicy s = .next (cmdSetUnmappedPolicy ⟨0x06, s.mp.params⟩ (handOver 0x06 s.acked)) :=
  congrArg Host.Outcome.next (takeByte_command s h 0x06)
theorem exec_activate : exec .activate s = .next (cmdActivate ⟨0x07, s.mp.params⟩ (handOver 0x07 s.acked)) :=
  congrArg Host.Outcome.next (takeByte_command s h 0x07)
theorem exec_deactivate : exec .deactivate s = .next (cmdDeactivate ⟨0x08, s.mp.params⟩ (handOver 0x08 s.acked)) :=
  congrArg Host.Outcome.next (takeByte_command s h 0x08)
theorem exec_unfence : exec .unfence s = .next (cmdUnfence ⟨0x09, s.mp.params⟩ (handOver 0x09 s.acked)) :=
  congrArg Host.Outcome.next (takeByte_command s h 0x09)
theorem exec_setHealth : exec .setHealth s = .next (cmdSetHealth ⟨0x0A, s.mp.params⟩ (handOver 0x0A s.acked)) :=
  congrArg Host.Outcome.next (takeByte_command s h 0x0A)
theorem exec_clearHealth : exec .clearHealth s = .next (cmdClearHealth ⟨0x0B, s.mp.params⟩ (handOver 0x0B s.acked)) :=
  congrArg Host.Outcome.next (takeByte_command s h 0x0B)
theorem exec_lockHealth : exec .lockHealth s = .next (cmdLockHealth ⟨0x0C, s.mp.params⟩ (handOver 0x0C s.acked)) :=
  congrArg Host.Outcome.next (takeByte_command s h 0x0C)
theorem exec_format : exec .format s = .next (cmdFormat ⟨0x0D, s.mp.params⟩ (handOver 0x0D s.acked)) :=
  congrArg Host.Outcome.next (takeByte_command s h 0x0D)
theorem exec_scrub : exec .scrub s = .next (cmdScrub ⟨0x0E, s.mp.params⟩ (handOver 0x0E s.acked)) :=
  congrArg Host.Outcome.next (takeByte_command s h 0x0E)
theorem exec_reblank : exec .reblank s = .next (cmdReblank ⟨0x0F, s.mp.params⟩ (handOver 0x0F s.acked)) :=
  congrArg Host.Outcome.next (takeByte_command s h 0x0F)
theorem exec_cancelSweep : exec .cancelSweep s = .next (cmdCancelSweep ⟨0x10, s.mp.params⟩ (handOver 0x10 s.acked)) :=
  congrArg Host.Outcome.next (takeByte_command s h 0x10)
theorem exec_setPacing : exec .setPacing s = .next (cmdSetPacing ⟨0x11, s.mp.params⟩ (handOver 0x11 s.acked)) :=
  congrArg Host.Outcome.next (takeByte_command s h 0x11)
theorem exec_querySweep : exec .querySweep s = .next (cmdQuerySweep (handOver 0x12 s.acked)) :=
  congrArg Host.Outcome.next (takeByte_command s h 0x12)
theorem exec_flush : exec .flush s = .next (cmdFlush ⟨0x13, s.mp.params⟩ (handOver 0x13 s.acked)) :=
  congrArg Host.Outcome.next (takeByte_command s h 0x13)
theorem exec_setTimeout : exec .setTimeout s = .next (cmdSetTimeout ⟨0x14, s.mp.params⟩ (handOver 0x14 s.acked)) :=
  congrArg Host.Outcome.next (takeByte_command s h 0x14)
theorem exec_setSweepShare : exec .setSweepShare s = .next (cmdSetSweepShare ⟨0x15, s.mp.params⟩ (handOver 0x15 s.acked)) :=
  congrArg Host.Outcome.next (takeByte_command s h 0x15)
theorem exec_setLogMask : exec .setLogMask s = .next (cmdSetLogMask ⟨0x16, s.mp.params⟩ (handOver 0x16 s.acked)) :=
  congrArg Host.Outcome.next (takeByte_command s h 0x16)
theorem exec_setAlertMask : exec .setAlertMask s = .next (cmdSetAlertMask ⟨0x17, s.mp.params⟩ (handOver 0x17 s.acked)) :=
  congrArg Host.Outcome.next (takeByte_command s h 0x17)
theorem exec_clearLogOverflow : exec .clearLogOverflow s = .next (cmdClearLogOverflow (handOver 0x18 s.acked)) :=
  congrArg Host.Outcome.next (takeByte_command s h 0x18)
theorem exec_resetEngine : exec .resetEngine s = .next (cmdResetEngine (handOver 0x19 s.acked)) :=
  congrArg Host.Outcome.next (takeByte_command s h 0x19)
end

end Sys2Proof.Machine
end

