-- ==== Sys2Proof/Laws/Parts.lean ====
section
/-! SUPPORT. One part of a slot or one line replaced, the buffer assigned to a part, the status of a write's parts, requests that
join a class, deferred tag writes, and the operations of other units that find nothing to do. -/

namespace Sys2Proof.Machine

/-- A list updated at a place whose element is known. -/
theorem modify_eq_set {α : Type} (l : List α) (k : Nat) (f : α → α) (p : α) (h : l[k]? = some p) :
    l.modify k f = l.set k (f p) := by
  induction l generalizing k with
  | nil => simp at h
  | cons a l ih =>
    cases k with
    | zero => simp at h; subst h; rfl
    | succ k => simp at h; simp [ih k h]

/-- An update of a known part replaces it. -/
theorem updPart_eq {s : State} {i : SlotId} {k : Nat} {p : Part} (h : (s.slot i).parts[k]? = some p) (f : Part → Part) :
    s.updPart i k f = s.withPart i k (f p) := by
  simp only [State.updPart, State.updSlot, State.withPart, Slot.updPart, modify_eq_set _ _ _ _ h]
  rfl

/-- Two updates of one part are one. -/
theorem updPart_updPart (s : State) (i : SlotId) (k : Nat) (f g : Part → Part) :
    (s.updPart i k f).updPart i k g = s.updPart i k (g ∘ f) := by
  have h : (s.updPart i k f).slot i = Slot.updPart k f (s.slot i) := vget_vset_same _ _ _
  have e : (s.updPart i k f).updPart i k g = { s with tu := { s.tu with
      slots := vset (vset s.tu.slots i (Slot.updPart k f (s.slot i))) i (Slot.updPart k g ((s.updPart i k f).slot i)) } } := rfl
  have v (x y : Slot) : vset (vset s.tu.slots i x) i y = vset s.tu.slots i y := by simp [vset]
  rw [e, h, v]
  simp only [Slot.updPart, List.modify_modify_eq]
  rfl

/-- The first of the numbers below `n` that meets a test. -/
theorem find_finRange {n : Nat} {p : Fin n → Bool} {b : Fin n} (h : p b = true) (hlt : ∀ c, c < b → p c = false) :
    (List.finRange n).find? p = some b := by
  rw [List.find?_eq_some_iff_append]
  refine ⟨h, (List.finRange n).take b.val, (List.finRange n).drop (b.val + 1), ?_, ?_⟩
  · have hb : b.val < (List.finRange n).length := by simp
    have e : (List.finRange n)[b.val] = b := by simp
    conv => lhs; rw [← List.take_append_drop b.val (List.finRange n)]
    rw [List.drop_eq_getElem_cons hb, e]
  · intro a ha
    rw [List.mem_take_iff_getElem] at ha
    obtain ⟨j, hj, rfl⟩ := ha
    rw [hlt]
    · rfl
    · simp only [List.getElem_finRange]
      show (_ : Nat) < b.val
      simp at hj ⊢
      omega

/-- The buffer a part owns. -/
theorem bufferOf_some {o : OpenBlockTable} {i : SlotId} {k : Nat} {b : Fin 8} (h : (vget o.buffers b).owner = some (i, k))
    (hlt : ∀ c, c < b → (vget o.buffers c).owner ≠ some (i, k)) : o.bufferOf i k = some b :=
  find_finRange (by simp [h]) fun c hc => by simpa using hlt c hc

/-- The status of a protected response is the one its parts give (R68, R89). -/
theorem status_of_answers {sl : Slot} {st : Status} (h : sl.answers st) : sl.status = st := by
  obtain ⟨h3, h4⟩ := h
  unfold Slot.status
  split
  · next h =>
    rw [List.any_eq_true] at h
    obtain ⟨x, hx, k⟩ := h
    rw [h3 ⟨x, hx, by simpa using k⟩]
  · next h =>
    rw [List.any_eq_true] at h
    obtain ⟨h5, h6⟩ := h4 fun p hp k => h ⟨p, hp, by simp [k]⟩
    split
    · next h =>
      rw [List.any_eq_true] at h
      obtain ⟨x, hx, k⟩ := h
      rw [h5 ⟨x, hx, by simpa using k⟩]
    · next h =>
      rw [List.any_eq_true] at h
      rw [h6 fun p hp k => h ⟨p, hp, by simp [k]⟩]

/-- With no job, there is nothing to cancel (R129). -/
theorem cancelJobs_none (p : Job → Bool) (t : State) (h : t.su.jobs = []) : cancelJobs p t = t := by
  have e : t.withJobs [] = t := by
    show { t with su := { t.su with jobs := [] } } = t
    rw [← h]
  unfold cancelJobs
  rw [h]
  show startNext (t.withJobs []) = t
  rw [e]
  unfold startNext
  rw [h]

/-- Internal events that change nothing are taken and gone. -/
theorem settle_noop (ws : List Task) (n : Nat) (t : State) (h : ∀ w ∈ ws, ∀ l, runTask w (t.withWork l) = t.withWork l)
    (hn : ws.length ≤ n) : settle n (t.withWork ws) = t.withWork [] := by
  induction ws generalizing n with
  | nil => exact settle_nil _ _ rfl
  | cons w ws ih =>
    obtain ⟨n, rfl⟩ : ∃ m, n = m + 1 := ⟨n - 1, by simp at hn; omega⟩
    show settle n (runTask w (t.withWork ws)) = _
    rw [h w (by simp) ws]
    exact ih n (fun w hw => h w (by simp [hw])) (by simp at hn; omega)

/-- Drains that wait for an entry change nothing when they look at their entry counts (R134). -/
theorem checkDrains_waiting (t : State) (hw : t.work = []) (h : ∀ r, (t.region r).state = .draining → t.obt.entriesOf r ≠ 0) :
    run (checkDrains t) = endReset t := by
  unfold run
  congr 1
  have e : checkDrains t = t.withWork ((drainingRegions t).map .drainCheck) := by
    unfold checkDrains
    show { t with work := t.work ++ _ } = _
    rw [hw]
    rfl
  rw [e, settle_noop]
  · show { t with work := [] } = t
    rw [← hw]
  · intro w hw' l
    rw [List.mem_map] at hw'
    obtain ⟨r, hr, rfl⟩ := hw'
    unfold drainingRegions at hr
    rw [List.mem_filter] at hr
    show drainCheck r _ = _
    unfold drainCheck
    rw [if_neg]
    rintro ⟨_, _, h3⟩
    exact h r (by simpa using hr.2) h3
  · rw [List.length_map]
    have l := List.length_filter_le (fun r => (t.region r).state == .draining) allRegions
    have e : allRegions.length = 16 := by simp [allRegions]
    unfold drainingRegions Config.cascadeFuel
    omega

/-- A key on no list completes no flush request (R108). -/
theorem leaveFlushes_none (key : RegionId × Nat) (d : Bool) (s : State) (h : ∀ f ∈ s.tc.flushes, key ∉ f.keys ∧ f.keys ≠ []) :
    leaveFlushes key d s = s := by
  have e : s.tc.flushes.map (FlushRequest.drop key d) = s.tc.flushes := by
    conv => rhs; rw [← List.map_id s.tc.flushes]
    apply List.map_congr_left
    intro f hf
    unfold FlushRequest.drop
    rw [if_neg (by simpa using (h f hf).1)]
    rfl
  unfold leaveFlushes completeFlushes
  rw [e]
  have e1 : s.tc.flushes.filter (fun f => f.keys.isEmpty) = [] := by
    rw [List.filter_eq_nil_iff]
    intro f hf
    simpa using (h f hf).2
  have e2 : s.tc.flushes.filter (fun f => !f.keys.isEmpty) = s.tc.flushes := by
    rw [List.filter_eq_self]
    intro f hf
    simpa using (h f hf).2
  show List.foldl _ (State.withTc _ { s.tc with flushes := s.tc.flushes.filter _ }) (s.tc.flushes.filter _) = _
  rw [e1, e2]
  rfl

/-- Requests of the WORK class join its queue in order. -/
theorem appendRequests_work (qs : List Request) (s : State) (h : ∀ q ∈ qs, q.cls = .work) :
    appendRequests qs s = { s with ma := { s.ma with workQueue := s.ma.workQueue ++ qs } } := by
  induction qs generalizing s with
  | nil => simp [appendRequests]
  | cons q qs ih =>
    have e : appendRequests (q :: qs) s = appendRequests qs (appendRequest q s) := rfl
    have e2 : appendRequest q s = { s with ma := { s.ma with workQueue := s.ma.workQueue ++ [q] } } := by
      unfold appendRequest MemoryArbiter.append
      rw [h q (by simp)]
      rfl
    rw [e, ih _ (fun q hq => h q (by simp [hq])), e2]
    simp

/-- Requests of the SWEEP class join its queue in order. -/
theorem appendRequests_sweep (qs : List Request) (s : State) (h : ∀ q ∈ qs, q.cls = .sweep) :
    appendRequests qs s = { s with ma := { s.ma with sweepQueue := s.ma.sweepQueue ++ qs } } := by
  induction qs generalizing s with
  | nil => simp [appendRequests]
  | cons q qs ih =>
    have e : appendRequests (q :: qs) s = appendRequests qs (appendRequest q s) := rfl
    have e2 : appendRequest q s = { s with ma := { s.ma with sweepQueue := s.ma.sweepQueue ++ [q] } } := by
      unfold appendRequest MemoryArbiter.append
      rw [h q (by simp)]
      rfl
    rw [e, ih _ (fun q hq => h q (by simp [hq])), e2]
    simp

/-- The locator of a block is its index plus the seed, in 16 bits (R20). -/
theorem locatorOf_eq (g : Region) (b : Nat) : locatorOf g b = BitVec.ofNat 16 (b + g.seed.toNat) := by
  unfold locatorOf
  rw [BitVec.ofNat_add]
  simp

/-- A tag encodes to 8 bytes (R19). -/
theorem encodeTag_length (t : Tag) : (encodeTag t).length = 8 := by simp [encodeTag, leBytes]

/-- Two updates of one line are one. -/
theorem updLine_updLine (s : State) (l : LineId) (f g : Line → Line) : (s.updLine l f).updLine l g = s.updLine l (g ∘ f) := by
  have h : (s.updLine l f).line l = f (s.line l) := vget_vset_same _ _ _
  have e : (s.updLine l f).updLine l g = { s with tc := { s.tc with
      lines := vset (vset s.tc.lines l (f (s.line l))) l (g ((s.updLine l f).line l)) } } := rfl
  have v (x y : Line) : vset (vset s.tc.lines l x) l y = vset s.tc.lines l y := by simp [vset]
  rw [e, h, v]
  rfl

/-- The tag writes of a line's positions join the TAG class in order, and nothing else changes (R102). -/
theorem issueTagWrites_eq (l : LineId) (r : RegionId) (line : Nat) (ds : List Deferred) (s : State)
    (hk : (s.line l).key = some (r, line)) :
    ds.foldl (fun s d => issueTagWrite l d s) s = { s with ma := { s.ma with
      tagQueue := s.ma.tagQueue ++ ds.map fun d => tagWriteRequest s l r line d.position d.maker d.part } } := by
  induction ds generalizing s with
  | nil => simp
  | cons d ds ih =>
    have e : issueTagWrite l d s = { s with ma := { s.ma with
        tagQueue := s.ma.tagQueue ++ [tagWriteRequest s l r line d.position d.maker d.part] } } := by
      unfold issueTagWrite
      rw [hk]
      rfl
    rw [List.foldl_cons, ih (issueTagWrite l d s) (by rw [e]; exact hk), e]
    simp [tagWriteRequest, State.line, State.region]

end Sys2Proof.Machine
end

