-- ==== Sys2Proof/Laws/Responses.lean ====
section
/-! SUPPORT. The bytes a response hands to a read, said once (R163, R165). -/

namespace Sys2Proof.Machine

/-- The bytes handed are as many as the read asked for. -/
theorem handedData_length (n : Nat) (data : List Byte) (s : State) : (handedData n data s).length = n := by
  simp only [handedData, freeBytes, List.length_append, List.length_take, List.length_map, List.length_range]
  omega

/-- A response of the read's length is handed as it is. -/
theorem handedData_exact (data : List Byte) (s : State) : handedData data.length data s = data := by
  simp only [handedData, freeBytes, List.take_length, Nat.sub_self, List.range_zero, List.map_nil, List.append_nil]

/-- The surplus of a longer response is not handed. -/
theorem handedData_take (n : Nat) (data : List Byte) (s : State) : handedData n (data.take n) s = handedData n data s := by
  have h : n - min n data.length = n - data.length := by omega
  simp only [handedData, List.take_take, List.length_take, Nat.min_self, h]

/-- The surplus of a longer response has no effect. -/
theorem takeResponse_take (t : DownTagId) (q : Request) (ok : Bool) (data : List Byte) (s : State) :
    takeResponse t q ok (data.take q.length) s = takeResponse t q ok data s := by
  have h : q.length - (data.take q.length).length = q.length - data.length := by
    rw [List.length_take]; omega
  simp only [takeResponse, handedData_take, h]

/-- An OK response to a read, of the length asked for. -/
theorem takeResponse_exact (t : DownTagId) (q : Request) (data : List Byte) (s : State) (k : q.kind.isWrite = false)
    (n : data.length = q.length) : takeResponse t q true data s = complete q true data (s.setDownTag t .powerOn) := by
  have h : handedData q.length data s = data := by rw [← n]; exact handedData_exact data s
  simp only [takeResponse, h, n, Nat.sub_self, Nat.add_zero, k]
  rfl

/-- A response to a write is taken by its tag and handed to the issuer without data (R163). -/
theorem exec_writeResponse {s : State} {t : DownTagId} {q : Request} (ok : Bool) (data : List Byte) (hp : s.pins.porst = false)
    (ht : (s.downTag t).state = .inFlight) (hq : (s.downTag t).request = some q) (hk : q.kind.isWrite = true) :
    exec (.downstreamResponse t ok data) s = .next (run (complete q ok [] (s.setDownTag t .powerOn))) := by
  show Host.Outcome.next (responseArrives t ok data s) = _
  unfold responseArrives
  rw [if_neg (by simp [hp]), ht, hq]
  simp only [takeResponse, hk, Bool.or_true, if_true]

end Sys2Proof.Machine
end

