-- ==== Sys2Proof/Laws/Slots.lean ====
section
/-! SUPPORT. The operations of the other units leave the Transaction Unit alone: a release, with all that it sets off in the Tag
Cache, the Region Unit and the Sweep Unit, changes no slot and no queued response (R48, R106). -/

namespace Sys2Proof.Machine

/-- A fold of operations that leave the Transaction Unit alone. -/
theorem foldl_tu {α : Type} (f : State → α → State) (hf : ∀ t a, (f t a).tu = t.tu) (l : List α) (t : State) :
    (l.foldl f t).tu = t.tu := by
  induction l generalizing t with
  | nil => rfl
  | cons a l ih => exact (ih _).trans (hf t a)

@[simp] theorem leaveBlocks_tu (op : OpId) (t : State) : (leaveBlocks op t).tu = t.tu := rfl

@[simp] theorem returnBuffers_tu (op : OpId) (t : State) : (returnBuffers op t).tu = t.tu := by cases op <;> rfl

@[simp] theorem setStep_tu (st : JobStep) (t : State) : (setStep st t).tu = t.tu := by unfold setStep; split <;> rfl

@[simp] theorem joinSweep_tu (t : State) : (joinSweep t).tu = t.tu := by
  unfold joinSweep; split
  · rfl
  · exact setStep_tu _ _

@[simp] theorem startNext_tu (t : State) : (startNext t).tu = t.tu := by
  unfold startNext; split
  · rfl
  · split
    · exact joinSweep_tu _
    · rfl

@[simp] theorem endHeadJob_tu (k : RecordKind) (d : Option Nat) (t : State) : (endHeadJob k d t).tu = t.tu := by
  unfold endHeadJob; split
  · rfl
  · exact startNext_tu _

@[simp] theorem cancelJob_tu (j : Job) (t : State) : (cancelJob j t).1.tu = t.tu := by unfold cancelJob; split <;> rfl

theorem cancelStep_tu (p : Job → Bool) (acc : List Job × State) (j : Job) : (cancelStep p acc j).2.tu = acc.2.tu := by
  unfold cancelStep; split
  · rfl
  · split <;> exact cancelJob_tu j _

theorem cancelFold_tu (p : Job → Bool) (l : List Job) (acc : List Job × State) :
    (l.foldl (cancelStep p) acc).2.tu = acc.2.tu := by
  induction l generalizing acc with
  | nil => rfl
  | cons j l ih => exact (ih _).trans (cancelStep_tu p acc j)

@[simp] theorem cancelJobs_tu (p : Job → Bool) (t : State) : (cancelJobs p t).tu = t.tu :=
  (startNext_tu _).trans (cancelFold_tu p _ _)

@[simp] theorem lineLost_tu (r : RegionId) (l : Nat) (t : State) : (lineLost r l t).tu = t.tu := by
  unfold lineLost; split <;> first | rfl | exact cancelJobs_tu _ _

@[simp] theorem reportDrain_tu (r : RegionId) (d : Nat) (t : State) : (reportDrain r d t).tu = t.tu := by
  unfold reportDrain; split
  · split <;> rfl
  all_goals rfl

@[simp] theorem endDrain_tu (r : RegionId) (t : State) : (endDrain r t).tu = t.tu :=
  (reportDrain_tu _ _ _).trans (foldl_tu (fun s l => invalidateLine l s) (fun _ _ => rfl) _ t)

@[simp] theorem tryEndDrain_tu (r : RegionId) (t : State) : (tryEndDrain r t).tu = t.tu := by
  unfold tryEndDrain; split
  · exact endDrain_tu r t
  · rfl

@[simp] theorem flushReport_tu (m : FlushMaker) (d : Nat) (t : State) : (flushReport m d t).tu = t.tu := by
  unfold flushReport; split
  · rfl
  · exact endHeadJob_tu _ _ _
  · exact tryEndDrain_tu _ _

@[simp] theorem leaveFlushes_tu (k : RegionId × Nat) (d : Bool) (t : State) : (leaveFlushes k d t).tu = t.tu :=
  foldl_tu (fun s (f : FlushRequest) => flushReport f.maker f.discarded s) (fun t f => flushReport_tu f.maker f.discarded t) _ _

@[simp] theorem requeueWaiters_tu (r : RegionId) (l : Nat) (ws : List (OpId × Nat)) (t : State) :
    (requeueWaiters r l ws t).tu = t.tu := by
  unfold requeueWaiters queueKey; split
  · rfl
  · split <;> rfl

@[simp] theorem discardLine_tu (l : LineId) (t : State) : (discardLine l t).tu = t.tu := by
  unfold discardLine; split
  · rfl
  · simp only [requeueWaiters_tu, leaveFlushes_tu, lineLost_tu]; rfl

@[simp] theorem issueWriteback_tu (l : LineId) (t : State) : (issueWriteback l t).tu = t.tu := by
  unfold issueWriteback; split <;> rfl

@[simp] theorem highWater_tu (t : State) : (highWater t).tu = t.tu := foldl_tu _ (fun t l => issueWriteback_tu l t) _ _

@[simp] theorem dropPins_tu (op : OpId) (t : State) : (dropPins op t).tu = t.tu :=
  (highWater_tu _).trans (foldl_tu _ (fun t l => discardLine_tu l t) _ _)

/-- A release changes no slot and no queued response. -/
@[simp] theorem releaseOp_tu (op : OpId) (t : State) : (releaseOp op t).tu = t.tu := by
  unfold releaseOp; simp only [dropPins_tu, returnBuffers_tu, leaveBlocks_tu]

/-- A release changes no slot. -/
@[simp] theorem releaseOp_slot (op : OpId) (t : State) (i : SlotId) : (releaseOp op t).slot i = t.slot i := by
  unfold State.slot; rw [releaseOp_tu]

/-- A lookup leaves the Transaction Unit as it is (R97). -/
@[simp] theorem lookupTag_tu (op : OpId) (k : Nat) (r : RegionId) (b : Nat) (t : State) : (lookupTag op k r b t).tu = t.tu := by
  unfold lookupTag queueKey lookupLine
  split <;> split <;> rfl

end Sys2Proof.Machine
end

