-- ==== Sys2Proof/WellFormed.lean ====
section
/-! DEFINITION. Which commands are messages the ports can carry. `exec` gives every term a next state, ill-formed or not;
the check says which terms stand for an event the manual describes. -/

namespace Sys2Proof

/-- The command codes of 12.4.2 are 0x01 to 0x19, without a gap. -/
def isCommandCode (code : Byte) : Bool := 1 ≤ code.toNat && code.toNat ≤ 25

/-- A command is well formed when it is a message or event of the manual: a write carries one enable for each data byte
(Table 9-1); a response carries at most 256 bytes, and none with result ERROR (Table 10-1, note 2); an unknown command
names no command (R181). -/
def Instr.wellFormed : Instr → Bool
  | .writeRequest _ _ _ data enables => enables.length == data.length
  | .downstreamResponse _ ok data => data.length ≤ 256 && (ok || data.isEmpty)
  | .unknownCommand code => !isCommandCode code
  | .readRequest _ _ _ _ | .responseSent | .admissionExamination | .bufferWaitExamination | .allocationExamination
  | .retryTimerExpiry _ | .flush | .pacingTimerExpiry | .format | .scrub | .reblank | .cancelSweep | .setPacing
  | .querySweep | .defineRegion | .clearRegion | .setAccess | .mapRequester | .setUnmappedPolicy | .queryRegion
  | .activate | .deactivate | .unfence | .setHealth | .clearHealth | .lockHealth | .requestGrant
  | .responseTimerExpiry _ | .quarantineTimerExpiry _ | .setTimeout | .setSweepShare | .ack _ | .logHeadRead _
  | .setLogMask | .setAlertMask | .clearLogOverflow | .mailboxOverrun _ | .statusWrite _ | .registerWrite _
  | .resetEngine | .frstAsserted | .frstReleased | .porstAsserted | .porstReleased _ | .startCondition
  | .stopCondition | .targetAddressByte _ | .registerOffsetByte _ => true

end Sys2Proof
end

