-- ==== Sys2Proof/Tests/Slice0.lean ====
section
/-! SUPPORT. The model's own tests: ill-formed commands the check refuses, small tests of one command on a small state, and for
every obligation with hypotheses a concrete state and operands that meet them, clause by clause. -/

namespace Sys2Proof.Tests

set_option Elab.async false

open Sys2Proof Sys2Proof.Machine

/-! ## Ill-formed commands (WellFormed) -/

theorem test_writeRequest_enables_must_match : (Instr.writeRequest 0 0 0 [1, 2] [true]).wellFormed = false := by decide
theorem test_writeRequest_wellFormed : (Instr.writeRequest 0 0 0 [1, 2] [true, false]).wellFormed = true := by decide
theorem test_response_longer_than_256 : (Instr.downstreamResponse 0 true (List.replicate 257 0)).wellFormed = false := by
  decide +kernel
theorem test_response_of_256 : (Instr.downstreamResponse 0 true (List.replicate 256 0)).wellFormed = true := by decide +kernel
theorem test_error_response_carries_no_data : (Instr.downstreamResponse 0 false [0]).wellFormed = false := by decide
theorem test_unknownCommand_names_no_command :
    (Instr.unknownCommand 0x01).wellFormed = false ∧ (Instr.unknownCommand 0x19).wellFormed = false ∧
    (Instr.unknownCommand 0x00).wellFormed = true ∧ (Instr.unknownCommand 0x1A).wellFormed = true := by decide

/-! ## Small states -/

/-- The next state of an outcome, `State.reset` for the others (which no command of this model has). -/
def after (c : Instr) (s : State) : State :=
  match exec c s with
  | .next t => t
  | .fault _ | .refused _ => State.reset

/-- `s` with the register offset `off` open for writing, the parameter registers beginning with `ps`. -/
def opened (off : Byte) (ps : List Byte) (s : State) : State :=
  s.withMp { s.mp with phase := .writing, offset := off, params := writeAt 0 ps s.mp.params }

/-- `s` ready for a command code, with its parameters. -/
def ready (ps : List Byte) (s : State) : State := opened 0x12 ps s

/-- `s` with a field of a region, a slot, a line or a downstream tag replaced. -/
def region (r : RegionId) (g : Region) (s : State) : State := s.updRegion r fun _ => g
/-- `s` with slot `i` replaced. -/
def slot (i : SlotId) (sl : Slot) (s : State) : State := s.updSlot i fun _ => sl
/-- `s` with line `l` replaced. -/
def line (l : LineId) (x : Line) (s : State) : State := s.updLine l fun _ => x

/-- A region of 8 blocks of 512 bytes at 0x10000, its tag line at 0x20000. -/
def g8 : Region :=
  { Region.powerOn with
    state := .online, label := 70, base := 0x10000, size := 4096, blockSize := 512, blockCount := 8, tagBase := 0x20000, epoch := 12
    checkSet := ⟨true, true, true⟩, frontier := 8, permissions := Vector.replicate 8 .readWrite }

/-- Reset with region 0 in service and requester 3 mapped to partition 0. -/
def served : State :=
  (region 0 g8 State.reset).withRu { (region 0 g8 State.reset).ru with requesterMap := vset State.reset.ru.requesterMap 3 (some 0) }

/-- A record with only its kind and source. -/
def rec1 (k : RecordKind) : Record := { Record.plain k .management with repeatCount := 1 }

/-- Reset with one record held. -/
def logged : State := State.reset.withEl { State.reset.el with log := [rec1 .stale], seq := 1 }

/-- A job on region 0, as accepted. -/
def job (id : BitVec 8) (k : JobKind) : Job := Job.new id k 0 0 4 none

/-- `s` with a job queue. -/
def jobs (js : List Job) (s : State) : State := s.withSu { s.su with jobs := js }

/-- A read of 16 bytes at an address, by requester 3. -/
def aRead (a : HostAddr) (n : Nat) : Slot :=
  { Slot.powerOn with state := .classified, requester := 3, tid := 1, kind := .read, address := a, length := n }

/-- A data request of slot 0. -/
def aRequest (k : ReqKind) (i : Issuer) : Request :=
  { kind := k, cls := .work, address := 0, length := 2, data := [], enables := [], issuer := i, key := ⟨none, none, none, none⟩
    inReset := false }

/-- `s` with downstream tag 0 IN_FLIGHT for a request. -/
def inFlight (q : Request) (s : State) : State := s.setDownTag 0 ⟨.inFlight, some q, 128, some 128, none⟩

/-- A DIRTY line of region 0, with nothing pinning it. -/
def dirtyLine : Line := { Line.powerOn with key := some (0, 0), state := .dirty }

/-! ## Small tests, one command each -/

theorem test_readRequest_classified :
    ((after (.readRequest 3 1 0x10000 16) served).slot 0).state = .admitting ∧
    (after (.readRequest 3 1 0x10000 16) served).obt.admission = [0] := by decide +kernel
theorem test_readRequest_two_blocks :
    ((after (.readRequest 3 1 0x101F0 32) served).slot 0).parts.map (fun p => (p.block, p.offset, p.count)) =
      [(0, 496, 16), (1, 0, 16)] := by decide +kernel
theorem test_writeRequest_denied_in_tag_area :
    ((after (.writeRequest 3 1 0x20000 [1] [true]) served).slot 0).response.map (·.status) = some .denied := by decide +kernel
theorem test_porstReleased_samples_strap :
    (after (.porstReleased 2) (after .porstAsserted State.reset)).mp.strap = 2 := by decide +kernel
theorem test_register_bytes_reach_parameters :
    (after (.registerWrite 7) (after (.registerOffsetByte 0x15) (after (.targetAddressByte 0x58)
      (after .startCondition State.reset)))).mp.params.toList.take 3 = [0, 7, 0] := by decide +kernel
theorem test_identification_read :
    (after (.logHeadRead true) (after (.targetAddressByte 0x59) (after .startCondition State.reset))).out.bus =
      [.ackBit true, .byte 0x71] := by decide +kernel
theorem test_setPacing : (after .setPacing (ready [0x34, 0x12] State.reset)).su.pacing = 0x1234 := by decide +kernel
theorem test_defineRegion :
    ((after .defineRegion (ready [0, 70, 0, 0, 1, 0, 0, 0, 0x10, 0, 0, 0, 0, 2, 0, 0, 2, 0, 0, 12, 0, 0, 7, 0, 0, 0]
      State.reset)).region 0).blockCount = 8 := by decide +kernel
theorem test_activate_starts_the_format :
    (after .activate (ready [0] (region 0 { g8 with state := .configured, frontier := 0 } State.reset))).su.jobs.map
      (fun j => (j.kind, j.state, j.step)) = [(.format, .running, .working)] := by decide +kernel
theorem test_overrun_is_recorded :
    (after .format (ready [0] (State.reset.withMp { State.reset.mp with mailbox := .busy }))).el.log.map (·.kind) =
      [.mailboxOverrun] := by decide +kernel
theorem test_late_response :
    (after (.downstreamResponse 5 true []) State.reset).el.log.map (·.kind) = [.lateResponse] := by decide +kernel
theorem test_longer_response_hands_its_first_bytes :
    ((after (.downstreamResponse 0 true [7, 8, 9]) (inFlight (aRequest .dataRead (.passThrough 0))
      (slot 0 { aRead 0x10000 2 with state := .passing } State.reset))).slot 0).response.map (·.data) = some [7, 8] := by
  decide +kernel
theorem test_job_ids_skip_held :
    let u := { (jobs [job 255 .scrub, job 1 .scrub] State.reset).su with nextId := 255 }
    u.idToGive = 2 ∧ (u.accept .scrub 0 0 1 none).nextId = 3 ∧ u.idToGive = idSteps 2 u.nextId := by decide +kernel
theorem test_frst_answers_nothing : (after .frstAsserted (after (.readRequest 3 1 0x10000 16) served)).tu = .powerOn := by
  decide +kernel

/-! ## Witnesses: the step, tags and the Check Unit -/

theorem witness_StepRunsTheFrontCommand :
    (State.reset.withPending [.ack 0]).pending = .ack 0 :: [] ∧ State.reset.pending = [] := ⟨rfl, rfl⟩

theorem witness_CrcCheckValueAndAffinity : ([0] : List Byte).length = ([255] : List Byte).length := rfl

theorem witness_DeltaGuardKeepsTheSyndrome :
    let D : List Byte := [1, 2]
    let new : List (Nat × Byte) := [(1, 9)]
    let t : Tag := ⟨crc D, 0, 0, false, 1⟩
    (∀ x ∈ new, x.1 < D.length) ∧ (0 < D.length ∧ D.getD 0 0 = 1 ∧ 0 ∉ new.map (·.1)) ∧
    (∀ x ∈ ([(1, 2)] : List (Nat × Byte)), D.getD x.1 0 = x.2) ∧
    (∃ t' : Tag, t'.guard = deltaGuard t.guard D.length (new.map fun x => (x.1, D.getD x.1 0)) new) ∧ syndrome t D = 0 :=
  ⟨by decide, by decide, by decide, ⟨⟨_, 0, 0, false, 1⟩, rfl⟩, by decide +kernel⟩

theorem witness_VerdictOrder :
    let g : Region := { g8 with frontier := 4, seed := 0xFFFF }
    let t : Tag := ⟨0, 3, 70, false, 12⟩
    ((⟨0, 3, 70, false, 11⟩ : Tag).epoch ≠ 12 ∧ 12 = g.epoch ∧ g.frontier ≤ 4 ∧ ¬ ((12 : Epoch) = g.epoch ∧ g.frontier ≤ 3)) ∧
    t.epoch = 12 ∧ (g.checkSet.locator = true ∧ (⟨0, 4, 70, false, 12⟩ : Tag).locator.toNat ≠ (4 + g.seed.toNat) % 65536) ∧
    t.locator.toNat = (4 + g.seed.toNat) % 65536 ∧
    (g.checkSet.label = true ∧ (⟨0, 3, 71, false, 12⟩ : Tag).label ≠ g.label) ∧ t.label = g.label ∧ t.blank = false ∧
    (⟨0, 3, 70, true, 12⟩ : Tag).blank = true ∧ crc [1] ≠ t.guard ∧ crc [] = t.guard := by decide +kernel

theorem witness_TagVerdictDecidesThePart :
    let p : Part := ⟨0, 0, 8, 0, .lookup, none, none, none, none, 0, 0, .okay, false, false, [], none, [], none⟩
    (Verdict.stale = .stale ∧ p.span = none) ∧ ({ p with span := some (0, 8) } : Part).span = some (0, 8) := by decide

/-- A read or write of region 0's block 0 in slot 0, with these parts. -/
def taking (k : Kind) (ps : List Part) : State :=
  slot 0 { aRead 0x10004 2 with state := .active, kind := k, region := some 0, epoch := some 12, parts := ps } served

/-- One part of it. -/
def aPart (ph : Phase) : Part := { Part.initial 0 4 2 0 [true, true] with phase := ph }

theorem witness_TagVerdictDecidesThePart_handed :
    (∀ k ph, let s := taking k [aPart ph]
      (s.slot 0).parts[0]? = some (aPart ph) ∧ (s.slot 0).region = some 0 ∧ (s.slot 0).epoch = some 12 ∧
      (s.slot 0).abandoned = false ∧ (s.slot 0).kind = k ∧ (aPart ph).phase = ph ∧ s.region 0 = g8) ∧
    (aPart .ready).phase ≠ .lookup ∧ ({ (taking .read []).slot 0 with abandoned := true } : Slot).abandoned = true ∧
    tagEvaluation g8 12 0 ⟨0, 0, 70, false, 12⟩ = .sound ∧ tagEvaluation g8 12 0 ⟨0, 0, 70, true, 12⟩ = .blank ∧
    tagEvaluation g8 12 0 ⟨0, 0, 70, false, 11⟩ = .stale ∧ tagEvaluation g8 12 0 ⟨0, 1, 70, false, 12⟩ = .misplaced ∧
    tagEvaluation g8 12 0 ⟨0, 0, 71, false, 12⟩ = .foreign :=
  ⟨fun _ _ => ⟨rfl, rfl, rfl, rfl, rfl, rfl, rfl⟩, by decide, rfl, by decide +kernel⟩

theorem witness_TagVerdictDecidesThePart_asks :
    let full : Part := { aPart .ready with verdict := some .sound }
    let write (path : Path) : Part := { aPart .ready with path := some path }
    let ks (s : State) (needs : Part → Bool) := (List.range (s.slot 0).parts.length).filter fun k => (s.slot 0).parts[k]?.any needs
    let reads (s : State) := ks s fun p => p.phase == .ready && g8.checkSet.guard && p.verdict == some .sound
    let writes (s : State) := ks s fun p => p.phase == .ready && (p.path == some .blankFill || p.path == some .verify)
    reads (taking .read [aPart .lookup]) = [] ∧ reads (taking .read [full, full]) = [0, 1] ∧
    reads (taking .read [aPart .done, full]) = [1] ∧ writes (taking .write [write .delta]) = [] ∧
    writes (taking .write [write .verify, write .blankFill]) = [0, 1] ∧
    (∃ p ∈ ((taking .write [aPart .lookup]).slot 0).parts, p.phase = .lookup) ∧
    ((∀ p ∈ ((taking .write [aPart .refused]).slot 0).parts, p.phase ≠ .lookup) ∧
      ∃ p ∈ ((taking .write [aPart .refused]).slot 0).parts, p.phase = .refused) ∧
    (∀ p ∈ ((taking .write [write .verify]).slot 0).parts, p.phase ≠ .lookup ∧ p.phase ≠ .refused) ∧
    (taking .read [full]).obt.bufferWait = [] ∧ 1 ≤ (taking .read [full]).obt.freeBuffers.length ∧
    ({ served.obt with bufferWait := [(1, 1)] } : OpenBlockTable).bufferWait ≠ [] ∧
    (vget served.obt.buffers 0).owner = none ∧ full.phase = .ready ∧ (write .delta).span = some (4, 5) ∧
    (∀ p : Part, (p.phase == .ready && g8.checkSet.guard && p.verdict == some .sound) = true ↔
      p.phase = .ready ∧ g8.checkSet.guard = true ∧ p.verdict = some .sound) ∧
    ∀ p : Part, (p.phase == .ready && (p.path == some .blankFill || p.path == some .verify)) = true ↔
      p.phase = .ready ∧ (p.path = some .blankFill ∨ p.path = some .verify) := by
  refine ⟨by decide +kernel, by decide +kernel, by decide +kernel, by decide +kernel, by decide +kernel, by decide +kernel,
    by decide +kernel, by decide +kernel, rfl, by decide +kernel, by decide, rfl, rfl, by decide +kernel, fun p => ?_,
    fun p => ?_⟩ <;> simp [and_assoc]

/-! ## Witnesses: the Open Block Table -/

theorem witness_GrantRule :
    let x : OpId × Mode := (.slot 0, .exclusive)
    let h : OpId × Mode := (.slot 1, .shared)
    let e (hs ws : List (OpId × Mode)) : Entry := ⟨0, 0, hs, ws⟩
    (e [h] []).waiters = [] ∧ ((e [] [x]).waiters = x :: [] ∧ (e [] [x]).holders = [] ∧ (e [h] [x]).holders ≠ []) ∧
    ((e [] [h, x]).waiters = [h] ++ [x] ∧ [h] ≠ [] ∧ (∀ w ∈ [h], w.2 = .shared) ∧ x.2 = .exclusive) ∧
    (∀ k ∈ (e [h] []).holders, k.2 = .shared) ∧ ∃ k ∈ (e [x] []).holders, k.2 = .exclusive := by decide

theorem witness_GrantRule_applied :
    let e (b : Nat) : Entry := ⟨0, b, [], [(.slot 0, .shared)]⟩
    let s := served.withEntries [e 1, e 0, e 2]
    (∀ x ∈ served.obt.entries, ¬ (x.region = 0 ∧ x.block = 0)) ∧
    (s.obt.entries = [e 1] ++ e 0 :: [e 2] ∧ (e 0).region = 0 ∧ (e 0).block = 0 ∧
      ∀ x ∈ [e 1] ++ [e 2], ¬ (x.region = 0 ∧ x.block = 0)) ∧
    (e 0).grant = (⟨0, 0, [(.slot 0, .shared)], []⟩, [.slot 0]) ∧
    (let t (ps : List Part) (hs : List (OpId × Mode)) := (taking .read ps).withEntries [⟨0, 0, hs, [(.slot 1, .shared)]⟩]
     (∀ ps hs, ((t ps hs).slot 0).region = some 0 ∧ ((t ps hs).slot 0).state = .active ∧ ((t ps hs).slot 0).parts = ps) ∧
     (∀ p ∈ [aPart .lookup], (∃ x ∈ (t [aPart .lookup] [(.slot 0, .shared)]).obt.entries, x.region = 0 ∧ x.block = p.block) ∧
       ∀ x ∈ (t [aPart .lookup] [(.slot 0, .shared)]).obt.entries, x.region = 0 → x.block = p.block →
         (OpId.slot 0, Mode.shared) ∈ x.holders) ∧
     ∀ x ∈ (t [aPart .lookup] []).obt.entries, x.holders = []) ∧
    (served.slot 0).state ≠ .active ∧ (jobs [job 1 .scrub] served).su.jobs = job 1 .scrub :: [] :=
  ⟨by decide +kernel, by decide +kernel, by decide +kernel, ⟨fun _ _ => ⟨rfl, rfl, rfl⟩, by decide +kernel, by decide +kernel⟩,
    by decide, rfl⟩

theorem witness_GrantRule_released :
    let op : OpId := .slot 0
    let out (e : Entry) : Entry := { e with holders := e.holders.filter (·.1 ≠ op), waiters := e.waiters.filter (·.1 ≠ op) }
    let stays (e : Entry) : Bool := decide ((out e).holders ≠ [] ∨ (out e).waiters ≠ [])
    (∀ e, stays e = true ↔ (out e).holders ≠ [] ∨ (out e).waiters ≠ []) ∧
    stays ⟨0, 0, [(.slot 0, .shared)], [(.slot 1, .exclusive)]⟩ = true ∧ stays ⟨0, 0, [(.slot 0, .shared)], []⟩ = false ∧
    (let B := vset served.obt.buffers 0 ⟨some (0, 0), List.replicate 4096 0⟩
     let B' := vset B 0 { vget B 0 with owner := none }
     ∀ b, (vget B b).owner = (if b = 0 then some (0, 0) else none) ∧ (vget B' b).owner = none) :=
  ⟨fun _ => decide_eq_true_iff, by decide, by decide, by decide +kernel⟩

/-- Slot 0 waiting for admission with a read of block 0 of region 0. -/
def admitting : State := after (.readRequest 3 1 0x10000 16) served

/-- The entries that slot 0 of `s` would make upstream ones, with those that are: U + n of R41 for region 0. -/
def room (s : State) : Nat :=
  (s.obt.entries.countP fun e => (e.holders ++ e.waiters).any fun w => w.1 != .sweep) +
    ((s.slot 0).parts.countP fun p =>
      match s.obt.entries.find? fun e => e.region == 0 && e.block == p.block with
      | none => true
      | some e => (e.holders ++ e.waiters).all fun w => w.1 == .sweep)

theorem witness_AdmissionHeadIsRefusedAdmittedOrWaits :
    State.reset.obt.admission = [] ∧ admitting.obt.admission = 0 :: [] ∧ (admitting.slot 0).region = some 0 ∧
    (admitting.region 0).state = .online ∧ ¬ ((admitting.region 0).fenced = true ∧ (admitting.slot 0).kind = .write) ∧
    room admitting ≤ 31 ∧
    (let f := region 0 { g8 with state := .faulted } admitting
     f.obt.admission = 0 :: [] ∧ (f.slot 0).region = some 0 ∧ (f.region 0).state ≠ .online ∧ (f.region 0).state ≠ .formatting) ∧
    (let w := slot 0 { admitting.slot 0 with kind := .write } (region 0 { g8 with fenced := true } admitting)
     w.obt.admission = 0 :: [] ∧ (w.slot 0).region = some 0 ∧ (w.region 0).fenced = true ∧ (w.slot 0).kind = .write) ∧
    (let u := admitting.withEntries ((List.range 31).map fun b => ⟨1, b, [(.slot 1, .shared)], []⟩)
     u.obt.admission = 0 :: [] ∧ (u.slot 0).region = some 0 ∧ (u.region 0).state = .online ∧
       31 < room u) ∧
    (let v := admitting.withEntries ((List.range 31).map fun b => ⟨0, b, [], [(.slot 1, .shared)]⟩)
     v.obt.admission = 0 :: [] ∧ room v ≤ 31) ∧
    (let w := admitting.withEntries [⟨0, 0, [(.sweep, .shared)], []⟩]
     w.obt.admission = 0 :: [] ∧ room w = 1) := by decide +kernel

theorem witness_BufferWaitHeadGetsItsBuffers :
    let p : Part :=
      { block := 0, offset := 0, count := 512, start := 0, phase := .ready, verdict := some .sound, tag := none, mode := none
        path := none, readsOut := 0, writesOut := 0, outcome := .okay, poison := false, faultPosted := false, data := []
        span := none, oldSpan := [], newTag := none }
    let s := slot 0 { aRead 0x10000 512 with region := some 0, parts := [p] }
      (served.withObt { served.obt with bufferWait := [(0, 1)] })
    let full := s.withObt { s.obt with buffers := s.obt.buffers.map fun b => { b with owner := some (1, 0) } }
    s.work = [] ∧ State.reset.obt.bufferWait = [] ∧
    (full.work = [] ∧ full.obt.bufferWait = (0, 1) :: [] ∧ full.obt.freeBuffers.length < 1) ∧ s.obt.bufferWait = [(0, 1)] ∧
    (vget s.obt.buffers 0).owner = none ∧ (∀ c, c < (0 : Fin 8) → (vget s.obt.buffers c).owner ≠ none) ∧
    (s.slot 0).kind = .read ∧ (s.slot 0).region = some 0 ∧ (s.slot 0).parts = [p] ∧ p.phase = .ready ∧ p.verdict = some .sound ∧
    (s.region 0).checkSet.guard = true := by decide +kernel

/-! ## Witnesses: requests -/

set_option synthInstance.maxSize 4096 in
set_option synthInstance.maxHeartbeats 400000 in
theorem witness_RequestRefusedAtArrival :
    let no := served.withRu { served.ru with requesterMap := Vector.replicate 64 none }
    let deny := served.withRu { served.ru with unmapped := .deny }
    requestSlot (.readRequest 3 1 0x10000 16) = some (aRead 0x10000 16) ∧ served.accepts 0 ∧
    (served.isMalformed (aRead 0x10000 0) ∧ served.isMalformed (aRead 0x10000 257) ∧ served.isMalformed (aRead 0x10FFF 2) ∧
      ¬ served.isMalformed (aRead 0x10F00 256)) ∧
    (¬ served.isMalformed (aRead 0x2003F 1) ∧ served.touchesTags (aRead 0x2003F 1) 0 ∧
      (∀ q', served.touchesTags (aRead 0x2003F 1) q' → q' = 0) ∧ ¬ served.touchesTags (aRead 0x20040 1) 0) ∧
    (deny.accepts 0 ∧ (∀ q, ¬ deny.touchesTags (aRead 0x11000 1) q) ∧ (∀ q, ¬ deny.inRange 0x11000 q) ∧ deny.ru.unmapped = .deny) ∧
    (no.accepts 0 ∧ no.reaches (aRead 0x10FFF 1) 0 ∧ no.partitionOf (aRead 0x10FFF 1) = none) := by
  simp only [State.accepts, State.isMalformed, State.touchesTags, State.inRange, State.reaches, State.partitionOf]
  decide +kernel

set_option synthInstance.maxSize 4096 in
set_option synthInstance.maxHeartbeats 400000 in
theorem witness_RequestRefusedAtArrival_inRegion :
    let w : Slot := { aRead 0x10000 1 with kind := .write, data := [1], enables := [true] }
    let ro := region 0 { g8 with permissions := Vector.replicate 8 .read } served
    let off := region 0 { g8 with state := .draining } served
    let fenced := region 0 { g8 with fenced := true } served
    requestSlot (.writeRequest 3 1 0x10000 [1] [true]) = some w ∧
    (ro.accepts 0 ∧ ro.reaches w 0 ∧ ro.partitionOf w = some 0 ∧ (vget (ro.region 0).permissions 0).deniesKind w.kind) ∧
    (off.accepts 0 ∧ off.reaches w 0 ∧ off.partitionOf w = some 0 ∧ ¬ (vget (off.region 0).permissions 0).deniesKind w.kind ∧
      (off.region 0).state ≠ .online ∧ (off.region 0).state ≠ .formatting) ∧
    (fenced.accepts 0 ∧ fenced.reaches w 0 ∧ fenced.partitionOf w = some 0 ∧
      ¬ (vget (fenced.region 0).permissions 0).deniesKind w.kind ∧ (fenced.region 0).fenced = true) := by
  simp only [State.accepts, State.isMalformed, State.touchesTags, State.inRange, State.reaches, State.partitionOf,
    Permission.deniesKind]
  decide +kernel

set_option synthInstance.maxSize 4096 in
set_option synthInstance.maxHeartbeats 400000 in
theorem witness_RequestQueuedOrPassedThrough :
    let sl := aRead 0x10000 16
    let out := aRead 0x11000 16
    let full := served.withTu { served.tu with slots := Vector.replicate 24 { Slot.powerOn with state := .passing } }
    requestSlot (.readRequest 3 1 0x10000 16) = some sl ∧ (∀ j, (full.slot j).state ≠ .free) ∧
    (served.accepts 0 ∧ served.reaches sl 0 ∧ served.partitionOf sl = some 0 ∧
      ¬ (vget (served.region 0).permissions 0).deniesKind sl.kind ∧ (served.region 0).state = .online ∧
      ¬ ((served.region 0).fenced = true ∧ sl.kind = .write)) ∧
    (requestSlot (.readRequest 3 1 0x11000 16) = some out ∧ ¬ served.isMalformed out ∧ (∀ q, ¬ served.touchesTags out q) ∧
      (∀ q, ¬ served.inRange out.address.toNat q) ∧ served.ru.unmapped = .pass) := by
  simp only [State.accepts, State.isMalformed, State.touchesTags, State.inRange, State.reaches, State.partitionOf,
    Permission.deniesKind]
  decide +kernel

theorem witness_RequestQueuedOrPassedThrough_parts :
    g8.base ≤ 0x101F0 ∧ 512 ≤ g8.blockSize ∧ g8.spanOf 0x101F0 16 = 1 ∧ g8.spanOf 0x101F0 17 = 2 ∧
    (partsOf g8 0x101F0 17 []).map (·.count) = [16, 1] ∧
    (partsOf g8 0x101F0 3 [false, true, true]).map (·.span) = [some (497, 498)] ∧
    (partsOf g8 0x101F0 1 [false]).map (·.span) = [none] := by decide +kernel

theorem witness_ResponseHeadIsSent :
    let s := after (.readRequest 3 1 0x10000 0) served
    State.reset.tu.responses = [] ∧ s.tu.responses = 0 :: [] ∧
    (s.slot 0).response = some ⟨3, 1, .read, .malformed, false, []⟩ := by decide +kernel

/-! ## Witnesses: the Tag Cache -/

/-- Reset with one key waiting for allocation. -/
def wanting : State := served.withTc { served.tc with alloc := [⟨0, 0, [(.slot 0, 0)]⟩] }

/-- `s` with every line but line 0 CLEANING, line 0 as given, and line 0 last in the ranking. -/
def crowded (x : Line) (s : State) : State :=
  s.withTc { s.tc with lines := vset (Vector.replicate 32 { Line.powerOn with state := .cleaning }) 0 x, lru := [1, 0] }

theorem witness_AllocationHeadTakesALine :
    let clean : Line := { dirtyLine with state := .clean }
    State.reset.tc.alloc = [] ∧ wanting.tc.alloc = ⟨0, 0, [(.slot 0, 0)]⟩ :: [] ∧
    ((wanting.line 0).state = .invalid ∧ ∀ m, m < (0 : LineId) → (wanting.line m).state ≠ .invalid) ∧
    (let s := crowded { clean with reserved := true } wanting
     (∀ m, (s.line m).state ≠ .invalid) ∧ (s.line 0).reserved = true ∧ (s.line 0).state = .clean ∧ (s.line 0).pinners = [] ∧
       ∀ m, (s.line m).reserved = true → m = 0) ∧
    (let s := crowded clean wanting
     (∀ m, (s.line m).state ≠ .invalid) ∧ (∀ m, ¬ ((s.line m).reserved = true ∧ (s.line m).state = .clean ∧ (s.line m).pinners = [])) ∧
       (s.line 0).state = .clean ∧ (s.line 0).pinners = [] ∧ s.tc.lru = [1] ++ 0 :: []) := by decide +kernel

theorem witness_AllocationHeadTakesALine_waits :
    let s := crowded dirtyLine wanting
    let kept := crowded { dirtyLine with reserved := true } wanting
    let none := crowded { dirtyLine with through := 1 } wanting
    s.tc.alloc ≠ [] ∧ (∀ m, (s.line m).state ≠ .invalid ∧ ((s.line m).state = .clean → (s.line m).pinners ≠ [])) ∧
    (∀ m, (s.line m).reserved = false) ∧ s.tc.lru = [1] ++ 0 :: [] ∧ (s.line 0).key = some (0, 0) ∧ (s.line 0).state = .dirty ∧
    (s.line 0).pinners = [] ∧ (s.line 0).retryTimer = .none ∧ (s.line 0).through = 0 ∧
    (kept.tc.alloc ≠ [] ∧ (∀ m, (kept.line m).state ≠ .invalid ∧ ((kept.line m).state = .clean → (kept.line m).pinners ≠ [])) ∧
      (kept.line 0).reserved = true) ∧
    (∀ m, (none.line m).state ≠ .invalid ∧ ((none.line m).state = .clean → (none.line m).pinners ≠ [])) ∧
      ∀ m, (none.line m).state = .dirty → (none.line m).through ≠ 0 := by decide +kernel

theorem witness_AllocationHeadTakesALine_lookup :
    let s (st : LineState) (ps : List OpId) := line 5 { dirtyLine with state := st, pinners := ps } served
    (∀ l, (served.line l).key ≠ some (0, 3 / 8)) ∧ (∀ a ∈ served.tc.alloc, ¬ (a.region = 0 ∧ a.line = 3 / 8)) ∧
    (wanting.tc.alloc = [] ++ ⟨0, 3 / 8, [(.slot 0, 0)]⟩ :: [] ∧ ∀ l, (wanting.line l).key ≠ some (0, 3 / 8)) ∧
    (∀ st ps, ((s st ps).line 5).key = some (0, 3 / 8) ∧ ((s st ps).line 5).state = st ∧ ((s st ps).line 5).pinners = ps) ∧
    (∀ m, m < (5 : LineId) → ((s .clean []).line m).key ≠ some (0, 3 / 8)) ∧ (3 : Fin 8).val = 3 % 8 ∧
    OpId.sweep ∉ ([] : List OpId) ∧ OpId.sweep ∈ [OpId.sweep] ∧
    (let x := ((s .stranded [.sweep]).line 5)
     (x.state == .stranded && decide (OpId.sweep ∈ x.pinners ∧ ∀ o ∈ x.pinners, o = .sweep)) = true) ∧
    (let x := ((s .stranded [.sweep, .slot 0]).line 5)
     (x.state == .stranded && decide (OpId.sweep ∈ x.pinners ∧ ∀ o ∈ x.pinners, o = .sweep)) = false) :=
  ⟨by decide +kernel, by decide +kernel, by decide +kernel, fun _ _ => ⟨rfl, rfl, rfl⟩, by decide +kernel, by decide, by decide,
    by decide, by decide +kernel, by decide +kernel⟩

theorem witness_RetryExpiryAndHighWaterRule :
    let s := line 0 { dirtyLine with retryTimer := some 32 } served
    let f := s.withTc { s.tc with flushes := [⟨.command, none, [(0, 0)], 0⟩] }
    (State.reset.line 0).retryTimer = none ∧
    ((s.line 0).retryTimer = some 32 ∧ (s.line 0).key = some (0, 0) ∧ ∀ x ∈ s.tc.flushes, ((0, 0) : RegionId × Nat) ∉ x.keys) ∧
    ((f.line 0).retryTimer = some 32 ∧ (f.line 0).key = some (0, 0) ∧ (∃ x ∈ f.tc.flushes, ((0, 0) : RegionId × Nat) ∈ x.keys) ∧
      (f.line 0).state = .dirty ∧ (f.line 0).through = 0) ∧
    (let c := State.reset.withTc { State.reset.tc with lines := Vector.replicate 32 dirtyLine, lru := allLines }
     c.tc.dirtyCount = 32 ∧ c.tc.lru.Nodup ∧ ∀ l, (c.line l).key.isSome = true) ∧ s.tc.dirtyCount ≤ 24 := by decide +kernel

/-! ## Witnesses: the memory port -/

theorem witness_WritebackCompletion :
    let q := aRequest .lineWriteback (.line 0)
    let s := inFlight q (line 0 { dirtyLine with state := .cleaning, attempts := 1 } served)
    s.pins.porst = false ∧ s.work = [] ∧ (s.downTag 0).state = .inFlight ∧ (s.downTag 0).request = some q ∧
    q.kind = .lineWriteback ∧ q.issuer = .line 0 ∧ (s.line 0).key = some (0, 0) ∧ (s.line 0).state = .cleaning ∧
    (s.line 0).deferred = [] ∧ (∀ f ∈ s.tc.flushes, ((0, 0) : RegionId × Nat) ∉ f.keys ∧ f.keys ≠ []) ∧
    (s.line 0).redirty = false ∧ (s.line 0).attempts < 2 ∧ s.tc.dirtyCount < 24 := by decide +kernel

theorem witness_WritebackCompletion_third :
    let q := aRequest .lineWriteback (.line 0)
    let s (ps : List OpId) := inFlight q (line 0 { dirtyLine with state := .cleaning, attempts := 2, pinners := ps } served)
    (∀ ps, (s ps).pins.porst = false ∧ ((s ps).downTag 0).state = .inFlight ∧ ((s ps).downTag 0).request = some q ∧
      ((s ps).line 0).key = some (0, 0) ∧ ((s ps).line 0).state = .cleaning ∧ ((s ps).line 0).deferred = [] ∧
      2 ≤ ((s ps).line 0).attempts ∧ ((s ps).line 0).pinners = ps ∧
      (s ps).ma.tagQueue ++ (s ps).ma.workQueue ++ (s ps).ma.sweepQueue = []) ∧
    (∀ d, d ≠ 0 → ((s []).downTag d).request = none) ∧ q.kind = .lineWriteback ∧ q.issuer = .line 0 :=
  ⟨fun _ => ⟨rfl, rfl, rfl, rfl, rfl, rfl, by show 2 ≤ 2; decide, rfl, rfl⟩, by decide +kernel, rfl, rfl⟩

theorem witness_WritebackCompletion_discard :
    let g (st : RegionState) := region 0 { g8 with state := st } served
    let f (keys : List (RegionId × Nat)) := served.withTc { served.tc with flushes := [⟨.command, none, keys, 0⟩] }
    ((g .online).region 0).state = .online ∧ ((g .formatting).region 0).state = .formatting ∧
    ((g .draining).region 0).state = .draining ∧ ((g .faulted).region 0).state = .faulted ∧
    served.tc.alloc = [] ∧ ([(.slot 0, 0)] : List (OpId × Nat)) ≠ [] ∧
    (∀ x ∈ (f [(0, 0), (0, 1)]).tc.flushes, x.keys.filter (· != (0, 0)) ≠ []) ∧
    (f [(0, 0)]).tc.flushes = [⟨.command, none, [(0, 0)], 0⟩] := by decide +kernel

theorem witness_WritebackCompletion_deferred :
    let q := aRequest .lineWriteback (.line 0)
    let x (redirty : Bool) (n : Nat) (ps : List OpId) : Line :=
      { dirtyLine with
        state := .cleaning, attempts := n, redirty := redirty, pinners := ps, through := 1, deferred := [⟨3, .sweep, 0⟩] }
    (∀ b n ps, let s := inFlight q (line 0 (x b n ps) served)
      s.pins.porst = false ∧ (s.downTag 0).state = .inFlight ∧ (s.downTag 0).request = some q ∧ s.line 0 = x b n ps ∧
      (x b n ps).key = some (0, 0) ∧ (x b n ps).state = .cleaning ∧ (x b n ps).redirty = b ∧ (x b n ps).attempts = n ∧
      (x b n ps).pinners = ps) ∧ q.kind = .lineWriteback ∧ q.issuer = .line 0 :=
  ⟨fun _ _ _ => ⟨rfl, rfl, rfl, rfl, rfl, rfl, rfl, rfl, rfl⟩, rfl, rfl⟩

theorem witness_WritebackCompletion_cut :
    ∃ cut : Request → Request,
      (∀ q m k, q.issuer = .tagWrite (some 5) m k → cut q = { q with issuer := .tagWrite none m k }) ∧
      (∀ q, (∀ m k, q.issuer ≠ .tagWrite (some 5) m k) → cut q = q) ∧ ((line 5 dirtyLine served).line 5).key = some (0, 0) := by
  refine ⟨fun q => match q.issuer with
    | .tagWrite (some l) m k => if l = 5 then { q with issuer := .tagWrite none m k } else q
    | _ => q, fun q m k h => ?_, fun q h => ?_, rfl⟩
  · simp [h]
  · dsimp only
    split
    · next l m k h' => rw [if_neg]; rintro rfl; exact h m k h'
    · rfl

theorem witness_GrantTakesTheChosenRequest :
    let q := aRequest .dataRead (.part 0 0 0)
    let tag := State.reset.withMa { State.reset.ma with tagQueue := [q] }
    let sweep := State.reset.withMa { State.reset.ma with sweepQueue := [q], workQueue := [q], shareCounter := 8 }
    let work := State.reset.withMa { State.reset.ma with sweepQueue := [q], workQueue := [q], shareCounter := 7 }
    (State.reset.ma.tagQueue = [] ∧ State.reset.ma.workQueue = [] ∧ State.reset.ma.sweepQueue = []) ∧
    ((tag.downTag 0).state = .free ∧ (∀ u, u < (0 : DownTagId) → (tag.downTag u).state ≠ .free) ∧ tag.ma.tagQueue = q :: []) ∧
    ((sweep.downTag 0).state = .free ∧ sweep.ma.tagQueue = [] ∧ sweep.ma.sweepQueue = q :: [] ∧
      sweep.ma.share ≤ sweep.ma.shareCounter) ∧
    ((work.downTag 0).state = .free ∧ work.ma.tagQueue = [] ∧ work.ma.workQueue = q :: [] ∧
      work.ma.shareCounter < work.ma.share) := by decide +kernel

theorem witness_ResponseCompletesTheRequest :
    let q (k : ReqKind) := aRequest k (.passThrough 0)
    let s (k : Kind) (st : SlotState) (q : Request) := inFlight q (slot 0 { aRead 0x10000 2 with kind := k, state := st } State.reset)
    let r := s .read .passing (q .dataRead)
    let w := s .write .passing (q .dataWrite)
    let a := s .write .abandoned (q .dataWrite)
    (r.pins.porst = false ∧ (r.downTag 0).state = .inFlight ∧ (r.downTag 0).request = some (q .dataRead) ∧ r.work = [] ∧
      (q .dataRead).issuer = .passThrough 0 ∧ (r.slot 0).state = .passing ∧ (r.slot 0).kind = .read ∧
      ([1, 2] : List Byte).length = (q .dataRead).length) ∧
    ((w.downTag 0).state = .inFlight ∧ (w.downTag 0).request = some (q .dataWrite) ∧ (w.slot 0).state = .passing ∧
      (w.slot 0).kind = .write ∧ (q .dataWrite).kind = .dataWrite) ∧
    ((a.downTag 0).state = .inFlight ∧ (a.downTag 0).request = some (q .dataWrite) ∧ (a.slot 0).state = .abandoned) := by
  decide +kernel

/-- A part of a write of bytes 4 and 5 of block 0. -/
def wPart (ph : Phase) (path : Path) : Part := { Part.initial 0 4 2 0 [true, true] with phase := ph, path := some path }

/-- Region 0 in service, a write of these parts in slot 0, buffer 0 its own, and a request of it in flight. -/
def writing (ps : List Part) (q : Request) : State :=
  inFlight q ((slot 0 { aRead 0x10004 2 with
      state := .active, kind := .write, data := [7, 8], enables := [true, true], region := some 0, epoch := some 12, parts := ps }
    served).withObt { served.obt with buffers := vset served.obt.buffers 0 ⟨some (0, 0), List.replicate 4096 0⟩ })

theorem witness_ResponseCompletesTheRequest_dataWrite :
    let q := aRequest .dataWrite (.part 0 0 0)
    let p (n : Nat) (o : PartOutcome) : Part := { wPart .writing .delta with writesOut := n, outcome := o, newTag := some .zero }
    (∀ n o, let s := writing [p n o] q
      s.pins.porst = false ∧ (s.downTag 0).state = .inFlight ∧ (s.downTag 0).request = some q ∧ (s.slot 0).kind = .write ∧
      (s.slot 0).region = some 0 ∧ (s.slot 0).parts[0]? = some (p n o) ∧ (p n o).phase = .writing ∧ (p n o).writesOut = n ∧
      (p n o).outcome = o ∧ (p n o).newTag = some .zero) ∧ q.issuer = .part 0 0 0 ∧ q.kind = .dataWrite :=
  ⟨fun _ _ => ⟨rfl, rfl, rfl, rfl, rfl, rfl, rfl, rfl, rfl, rfl⟩, rfl, rfl⟩

theorem witness_ResponseCompletesTheRequest_ends :
    let p (o : PartOutcome) : Part := { wPart .done .delta with outcome := o }
    let s (ps : List Part) := (writing ps (aRequest .dataWrite (.part 0 0 0))).slot 0
    (∃ x ∈ (s [p .okay, wPart .writing .delta]).parts, x.phase ≠ .done) ∧ (∀ x ∈ (s [p .okay]).parts, x.phase = .done) ∧
    (s [p .okay]).abandoned = false ∧ ({ s [p .okay] with abandoned := true } : Slot).abandoned = true ∧
    (s [p .okay]).answers .okay ∧ (s [p .okay, p .checkFail]).answers .checkFail ∧
    (s [p .checkFail, p .memoryFault]).answers .memoryFault := by
  simp only [Slot.answers]
  decide +kernel

theorem witness_ResponseCompletesTheRequest_tagUpdate :
    let s (g : TagPolicy) (st : LineState) := line 5 { dirtyLine with state := st } (region 0 { g8 with tagPolicy := g } served)
    (∀ g st, ((s g st).line 5).key = some (0, 3 / 8) ∧ ((s g st).region 0).tagPolicy = g ∧ ((s g st).line 5).state = st) ∧
    (∀ m, m < (5 : LineId) → ((s .writeBack .clean).line m).key ≠ some (0, 3 / 8)) ∧
    (∀ m, m < (5 : LineId) → ((s .writeThrough .cleaning).line m).key ≠ some (0, 3 / 8)) ∧
    (∀ m, m < (5 : LineId) → ((s .writeThrough .clean).line m).key ≠ some (0, 3 / 8)) ∧ (3 : Fin 8).val = 3 % 8 :=
  ⟨fun _ _ => ⟨rfl, rfl, rfl⟩, by decide +kernel, by decide +kernel, by decide +kernel, rfl⟩

theorem witness_ResponseCompletesTheRequest_tagWrite :
    let q := aRequest .tagWrite (.tagWrite (some 5) (.slot 0) 0)
    let x (n : Nat) : Line := { dirtyLine with through := n }
    let s (n : Nat) := line 5 (x n) (writing [wPart .tagging .delta] q)
    (∀ n, (s n).pins.porst = false ∧ ((s n).downTag 0).state = .inFlight ∧ ((s n).downTag 0).request = some q ∧
      ((s n).slot 0).parts[0]? = some (wPart .tagging .delta) ∧ (s n).line 5 = x n ∧ (x n).key = some (0, 0) ∧
      (x n).state = .dirty ∧ (x n).through = n ∧ (x n).throughFault = false ∧ (s n).tc.flushes = []) ∧
    ¬ ((x 2).state = .dirty ∧ (x 2).through = 1 ∧ (x 2).throughFault = false) ∧ q.kind = .tagWrite ∧
    q.issuer = .tagWrite (some 5) (.slot 0) 0 :=
  ⟨fun _ => ⟨rfl, rfl, rfl, rfl, rfl, rfl, rfl, rfl, rfl, rfl⟩, by decide, rfl, rfl⟩

/-- The tag's guard `g` is any value, so both the CRC of the block and another one are met. -/
theorem witness_SpanReadIsAnsweredWithItsBytes_writeReads :
    let q := aRequest .dataRead (.part 0 0 4)
    let p (path : Path) (n : Nat) (g : BitVec 32) : Part :=
      { wPart .reading path with readsOut := n, tag := some ⟨g, 0, 70, false, 12⟩ }
    (∀ path n g o, let s := writing [{ p path n g with outcome := o }] q
      s.pins.porst = false ∧ (s.downTag 0).state = .inFlight ∧ (s.downTag 0).request = some q ∧ (s.slot 0).kind = .write ∧
      (s.slot 0).abandoned = false ∧ (s.slot 0).parts[0]? = some { p path n g with outcome := o } ∧ (s.slot 0).region = some 0 ∧
      (s.slot 0).epoch = some 12 ∧ (p path n g).path = some path ∧ (p path n g).readsOut = n ∧
      (p path n g).tag = some ⟨g, 0, 70, false, 12⟩ ∧
      (vget s.obt.buffers 0) = ⟨some (0, 0), List.replicate 4096 0⟩ ∧ (s.region 0).checkSet.guard = true) ∧
    (p .delta 1 0).outcome ≠ .memoryFault ∧ (∀ c : Fin 8, ¬ c < 0) ∧ ([1, 2] : List Byte).length = q.length ∧
    q.issuer = .part 0 0 4 ∧ q.kind = .dataRead ∧ (∀ c : BitVec 32, c ≠ c ^^^ 1) ∧
    ((region 0 { g8 with checkSet := ⟨true, true, false⟩ } served).region 0).checkSet.guard = false :=
  ⟨fun _ _ _ _ => ⟨rfl, rfl, rfl, rfl, rfl, rfl, rfl, rfl, rfl, rfl, rfl, rfl, rfl⟩, by decide, by decide, rfl, rfl, rfl,
    fun c h => by simpa using congrArg (·.getLsbD 0) h, rfl⟩

theorem witness_SpanReadIsAnsweredWithItsBytes_decision :
    let s (ps : List Part) := writing ps (aRequest .dataRead (.part 0 0 4))
    let w := wPart
    (∃ p ∈ ((s [w .reading .delta]).slot 0).parts, p.phase = .lookup ∨ p.phase = .reading) ∧
    ((∀ p ∈ ((s [w .ready .delta]).slot 0).parts, p.phase ≠ .refused) ∧
      ∃ p ∈ ((s [w .ready .delta]).slot 0).parts, p.phase ≠ .checked) ∧
    (let r := (s [w .refused .delta, w .ready .delta]).slot 0
     (∀ p ∈ r.parts, p.phase ≠ .lookup ∧ p.phase ≠ .reading) ∧ (∃ p ∈ r.parts, p.phase = .refused) ∧ r.abandoned = false ∧
       r.answers .okay) ∧
    (let c := s [w .checked .empty, { w .checked .delta with tag := some .zero }, w .checked .verify, w .checked .blankFill]
     (c.slot 0).region = some 0 ∧ (c.slot 0).epoch = some 12 ∧ (∀ p ∈ (c.slot 0).parts, p.phase = .checked) ∧
       (c.slot 0).parts.map (·.path) = [some .empty, some .delta, some .verify, some .blankFill] ∧
       (∀ p ∈ (c.slot 0).parts, p.span = some (4, 5) ∧ p.offset ≤ 4 ∧ 5 < p.offset + p.count)) ∧
    (let b (path : Path) := s [w .checked path]
     ∀ path, ((b path).slot 0).parts = [w .checked path] ∧ (vget (b path).obt.buffers 0).owner = some (0, 0)) := by
  simp only [Slot.answers]
  exact ⟨by decide +kernel, by decide +kernel, by decide +kernel, by decide +kernel, fun _ => ⟨rfl, rfl⟩⟩

theorem witness_SpanReadIsAnsweredWithItsBytes_reads :
    let q := aRequest .dataRead (.part 0 0 4)
    let p (m : DataMode) (n : Nat) (g : BitVec 32) (o : PartOutcome) : Part :=
      { aPart .reading with mode := some m, readsOut := n, tag := some ⟨g, 0, 70, false, 12⟩, outcome := o }
    (∀ a m n g o,
      let s := region 0 { g8 with readAction := a } ((writing [p m n g o] q).updSlot 0 fun sl => { sl with kind := .read })
      s.pins.porst = false ∧ (s.downTag 0).state = .inFlight ∧ (s.downTag 0).request = some q ∧ (s.slot 0).kind = .read ∧
      (s.slot 0).abandoned = false ∧ (s.slot 0).parts[0]? = some (p m n g o) ∧ (s.slot 0).region = some 0 ∧
      (s.slot 0).epoch = some 12 ∧ (p m n g o).mode = some m ∧ (p m n g o).readsOut = n ∧ (p m n g o).outcome = o ∧
      (p m n g o).tag = some ⟨g, 0, 70, false, 12⟩ ∧ (vget s.obt.buffers 0).owner = some (0, 0) ∧ (s.region 0).readAction = a) ∧
    (∀ c : Fin 8, ¬ c < 0) ∧ ([1, 2] : List Byte).length = q.length ∧ q.issuer = .part 0 0 4 ∧ q.kind = .dataRead ∧
    ∀ c : BitVec 32, c ≠ c ^^^ 1 :=
  ⟨fun _ _ _ _ _ => ⟨rfl, rfl, rfl, rfl, rfl, rfl, rfl, rfl, rfl, rfl, rfl, rfl, rfl, rfl⟩, by decide, rfl, rfl, rfl,
    fun c h => by
      have := congrArg (fun x => x.getLsbD 0) h
      simp at this⟩

theorem witness_SpanReadIsAnsweredWithItsBytes_ends :
    let p (o : PartOutcome) (poison : Bool) : Part := { aPart .done with outcome := o, poison := poison }
    let s (ps : List Part) := (taking .read ps).slot 0
    (∃ x ∈ (s [p .okay true, aPart .reading]).parts, x.phase ≠ .done) ∧ (∀ x ∈ (s [p .okay true]).parts, x.phase = .done) ∧
    (s [p .okay true]).abandoned = false ∧ (s [p .okay true]).answers .okay ∧
    (s [p .okay false, p .checkFail false]).answers .checkFail ∧
    (s [p .checkFail false, p .memoryFault false]).answers .memoryFault ∧
    (true = true ↔ ∃ x ∈ (s [p .okay true]).parts, x.poison = true) ∧
    (false = true ↔ ∃ x ∈ (s [p .okay false]).parts, x.poison = true) := by
  simp only [Slot.answers]
  decide +kernel

theorem witness_SpanReadIsAnsweredWithItsBytes :
    let q := aRequest .dataRead (.part 0 0 0)
    let p : Part :=
      { block := 0, offset := 0, count := 2, start := 0, phase := .reading, verdict := some .sound, tag := none, mode := some .span
        path := none, readsOut := 1, writesOut := 0, outcome := .okay, poison := false, faultPosted := false, data := []
        span := none, oldSpan := [], newTag := none }
    let s := inFlight q (slot 0 { aRead 0x10000 2 with state := .active, region := some 0, parts := [p] } served)
    s.pins.porst = false ∧ (s.downTag 0).state = .inFlight ∧ (s.downTag 0).request = some q ∧ q.kind = .dataRead ∧
    ([1, 2] : List Byte).length = q.length ∧ q.issuer = .part 0 0 0 ∧ (s.slot 0).kind = .read ∧ (s.slot 0).abandoned = false ∧
    (s.slot 0).parts = [p] ∧ p.phase = .reading ∧ p.mode = some .span ∧ p.readsOut = 1 ∧ p.outcome = .okay := by decide +kernel

theorem witness_ReadIsHandedTheBytesOfItsResponse :
    let q := aRequest .dataRead (.passThrough 0)
    let f := aRequest .lineFill (.line 0)
    let s := inFlight q (slot 0 { aRead 0x10000 2 with state := .passing } State.reset)
    s.pins.porst = false ∧ (s.downTag 0).state = .inFlight ∧ (s.downTag 0).request = some q ∧ q.kind = .dataRead ∧
    q.issuer = .passThrough 0 ∧ s.work = [] ∧ (s.slot 0).state = .passing ∧ (s.slot 0).kind = .read ∧ q.length = 2 ∧
    ((inFlight f s).downTag 0).state = .inFlight ∧ ((inFlight f s).downTag 0).request = some f ∧ f.kind = .lineFill := by
  decide +kernel

theorem witness_ReadIsHandedTheBytesOfItsResponse_fill :
    let q : Request := { aRequest .lineFill (.line 5) with length := 64 }
    let x : Line := { dirtyLine with state := .filling, waiters := [(.slot 0, 0), (.sweep, 0)] }
    let s := line 5 x (jobs [job 1 .scrub] (writing [wPart .lookup .delta] q))
    s.pins.porst = false ∧ (s.downTag 0).state = .inFlight ∧ (s.downTag 0).request = some q ∧ q.kind = .lineFill ∧
    q.issuer = .line 5 ∧ s.line 5 = x ∧ x.key = some (0, 0) ∧ x.state = .filling ∧ (List.replicate 64 (0 : Byte)).length = q.length ∧
    x.waiters[0]? = some (.slot 0, 0) ∧ (s.slot 0).parts[0]? = some (wPart .lookup .delta) ∧ x.waiters[1]? = some (.sweep, 0) ∧
    s.su.jobs = job 1 .scrub :: [] := by decide +kernel

theorem witness_ReadIsHandedTheBytesOfItsResponse_drain :
    let s (st : LineState) :=
      line 5 { dirtyLine with state := st } (region 0 { g8 with state := .draining, drainFlushed := true } served)
    (served.region 0).state ≠ .draining ∧ ((region 0 { g8 with state := .draining } served).region 0).drainFlushed = false ∧
    (((s .filling).line 5).state = .filling ∧ ((s .filling).line 5).key = some (0, 0)) ∧
    ((s .clean).region 0).state = .draining ∧ ((s .clean).region 0).drainFlushed = true ∧
    (∀ m, ((s .clean).line m).key = (if m = 5 then some (0, 0) else none) ∧ ((s .clean).line m).state ≠ .filling ∧
      ((m == 5) = true ↔ ((s .clean).line m).state = .clean)) := by decide +kernel

theorem witness_ExpiryQuarantinesAndLateResponsesAreDiscarded :
    let q := aRequest .dataRead (.part 0 0 0)
    let s := inFlight q State.reset
    let quarantined := State.reset.setDownTag 0 ⟨.quarantined, some q, 128, none, some 1024⟩
    s.pins.porst = false ∧ ((quarantined.downTag 0).state = .quarantined ∧ (quarantined.downTag 0).request = some q) ∧
    (State.reset.downTag 0).state = .free ∧ (s.downTag 0).state ≠ .quarantined ∧ (quarantined.downTag 0).state ≠ .inFlight ∧
    (s.downTag 0).state = .inFlight ∧ (s.downTag 0).request = some q := by decide +kernel

/-! ## Witnesses: the event log -/

theorem witness_OfferIsFilteredOrMerged :
    let e := logged.el
    ((rec1 .denied).kind = .denied ∧ e.logMask.denied = false) ∧
    ((rec1 .unavailable).kind = .unavailable ∧ e.logMask.unavailable = false) ∧
    ((rec1 .malformed).kind = .malformed ∧ e.logMask.malformed = false) ∧
    (¬ (((rec1 .stale).kind = .denied ∧ e.logMask.denied = false) ∨
      ((rec1 .stale).kind = .unavailable ∧ e.logMask.unavailable = false) ∨
      ((rec1 .stale).kind = .malformed ∧ e.logMask.malformed = false))) ∧
    (e.takes (rec1 .stale).kind = true ∧ e.log = [] ++ [rec1 .stale]) := by decide +kernel

theorem witness_UnmatchedRecordIsAppendedOrDropped :
    let e := State.reset.el
    let full := { e with log := List.replicate 32 (rec1 .corrupt) }
    (e.takes .stale = true ∧ e.log = [] ∧ e.log.length < 32) ∧
    (full.takes .stale = true ∧ (rec1 .stale).kind ≠ (rec1 .corrupt).kind ∧ 32 ≤ full.log.length) ∧ logged.el.Law := by
  simp only [EventLog.Law]
  exact ⟨by decide +kernel, by decide +kernel, by decide, rfl, by decide⟩

theorem ready_takes (ps : List Byte) (s : State) (h : s.pins.porst = false) (h' : s.mp.mailbox ≠ .busy) :
    (ready ps s).takesCommand := ⟨⟨h, rfl, rfl⟩, h'⟩

/-- A command can be handed over at reset and in `served`, whatever its parameters. -/
theorem reset_takes (ps : List Byte) : (ready ps State.reset).takesCommand ∧ (ready ps served).takesCommand :=
  ⟨ready_takes _ _ rfl (by decide), ready_takes _ _ rfl (by decide)⟩

/-- A byte can be written to any register at reset. -/
theorem reset_writing (off : Byte) (ps : List Byte) : (opened off ps State.reset).writingAt off := ⟨rfl, rfl, rfl⟩

theorem witness_AlertConditionAndSetAlertMask :
    (ready [1] State.reset).takesCommand ∧
    (∃ bs : Vector Bool 22, ∀ k : Fin 22, (ready [1] State.reset).param k.val 1 = bit (vget bs k)) ∧
    1 < (ready (List.replicate 21 0 ++ [2]) State.reset).param (21 : Fin 22).val 1 :=
  ⟨(reset_takes _).1, ⟨vset (Vector.replicate 22 false) 0 true, by decide +kernel⟩, by decide +kernel⟩

theorem witness_AckRemovesTheHead :
    (opened 0xF0 [] State.reset).writingAt 0xF0 ∧ (opened 0xF0 [] State.reset).el.log = [] ∧
    (opened 0xF0 [] logged).writingAt 0xF0 ∧ (opened 0xF0 [] logged).el.log = rec1 .stale :: [] :=
  ⟨reset_writing _ _, rfl, ⟨rfl, rfl, rfl⟩, rfl⟩

theorem witness_SetLogMaskAndClearOverflow :
    (ready [0, 1, 1] State.reset).takesCommand ∧
    ((ready [0, 1, 1] State.reset).param 0 1 = bit false ∧ (ready [0, 1, 1] State.reset).param 1 1 = bit true ∧
      (ready [0, 1, 1] State.reset).param 2 1 = bit true) ∧
    1 < (ready [2] State.reset).param 0 1 ∧ 1 < (ready [0, 2] State.reset).param 1 1 ∧
    1 < (ready [0, 0, 2] State.reset).param 2 1 :=
  ⟨(reset_takes _).1, by decide +kernel⟩

/-! ## Witnesses: the Management Port -/

theorem witness_BusTransfersOpenAndEnd :
    let p (b : BusPhase) := State.reset.withMp { State.reset.mp with phase := b }
    (State.reset.withPins ⟨true, false⟩).pins.porst = true ∧ State.reset.pins.porst = false ∧ (p .address).mp.phase = .address ∧
    (0x58 : Byte).toNat / 2 = 0x2C + (p .address).mp.strap.toNat ∧ (0x5A : Byte).toNat / 2 ≠ 0x2C + (p .address).mp.strap.toNat ∧
    (p .offset).mp.phase = .offset ∧ busByte (.ack 7) = some 7 ∧ busByte .format = some 0x0D ∧ (p .idle).mp.phase = .idle ∧
    (p .ignored).mp.phase = .ignored ∧ (p .reading).mp.phase = .reading ∧ (p .readEnded).mp.phase = .readEnded := by
  decide +kernel

theorem witness_RegisterWritesAndUnknownCodes :
    (opened (BitVec.ofNat 8 (0x14 + (0 : Fin 28).val)) [] State.reset).writingAt (BitVec.ofNat 8 (0x14 + (0 : Fin 28).val)) ∧
    (opened (BitVec.ofNat 8 (0x14 + (27 : Fin 28).val)) [] State.reset).writingAt (BitVec.ofNat 8 (0x14 + (27 : Fin 28).val)) ∧
    (opened 0x13 [] State.reset).writingAt 0x13 ∧ (0x13 : Byte).toNat < 0x14 ∧
    (opened 0x30 [] State.reset).writingAt 0x30 ∧ 0x30 ≤ (0x30 : Byte).toNat ∧
    (ready [] State.reset).takesCommand ∧ (0 : Byte).toNat = 0 ∧ 25 < (26 : Byte).toNat :=
  ⟨reset_writing _ _, reset_writing _ _, reset_writing _ _, by decide, reset_writing _ _, by decide, (reset_takes _).1, rfl,
    by decide⟩

/-- Reset with a long command in progress. -/
def busy : State := State.reset.withMp { State.reset.mp with mailbox := .busy, long := some .flush }

theorem witness_OverrunAndStatusWrite :
    commandCode .format = some 0x0D ∧ (ready [] busy).writingAt 0x12 ∧ (ready [] busy).mp.mailbox = .busy ∧
    (opened 0x10 [] State.reset).writingAt 0x10 := ⟨rfl, ⟨rfl, rfl, rfl⟩, rfl, reset_writing _ _⟩

theorem witness_RefusedCommandsChangeOnlyTheMailbox :
    commandCode .setPacing = some 0x11 ∧ (ready [0, 0, 1, 0] State.reset).takesCommand ∧ (ready [0, 0, 1, 0] State.reset).work = [] ∧
    ∃ t, exec .setPacing (ready [0, 0, 1, 0] State.reset) = .next t ∧ t.mp.result = .refusedParam :=
  ⟨rfl, (reset_takes _).1, rfl, _, rfl, by decide +kernel⟩

theorem witness_ReadTransferPlacesTheRegisterByte :
    let r (off : Byte) := State.reset.withMp { State.reset.mp with phase := .reading, offset := off }
    State.reset.mp.phase ≠ .reading ∧ (∀ off, (r off).pins.porst = false ∧ (r off).mp.phase = .reading ∧ (r off).mp.offset = off) ∧
    (12 : Byte).toNat < 13 ∧ (0x2F : Byte).toNat = 0x14 + (27 : Fin 28).val ∧ (0xAF : Byte).toNat = 0x30 + (127 : Fin 128).val ∧
    (0xEF : Byte).toNat = 0xB0 + (63 : Fin 64).val ∧ 0xF0 < (0xF1 : Byte).toNat ∧
    (logged.el.log.length ≤ 32 ∧ logged.el.dropped ≤ 65535) ∧ State.reset.el.log = [] ∧ logged.el.log = rec1 .stale :: [] ∧
    (rec1 .stale).repeatCount ≤ 255 := by
  exact ⟨by decide, fun _ => ⟨rfl, rfl, rfl⟩, by decide, by decide, by decide, by decide, by decide, by decide, rfl, rfl, by decide⟩

/-! ## Witnesses: the Region Unit's commands -/

/-- A well-formed DEFINE REGION of region 1, block size 512, one page, with a base and a tag base. -/
def defining (label : Byte) (base tagBase : Nat) : List Byte :=
  [1, label] ++ leBytes 5 base ++ leBytes 5 4096 ++ leBytes 2 512 ++ leBytes 5 tagBase ++ [1] ++ leBytes 2 0 ++ [7, 1, 1, 1]

/-- The region that `defining` describes. -/
def gDefined (label : Byte) (base tagBase : Nat) : Region :=
  { Region.powerOn with
    state := .configured, label := label, base := base, size := 4096, blockCount := 8, tagBase := tagBase, epoch := 1, frontier := 8 }

theorem witness_DefineRegionChecksAndDefines_refused :
    (ready [16] State.reset).takesCommand ∧ 16 ≤ (ready [16] State.reset).param 0 1 ∧
    ((ready [0] served).takesCommand ∧ (ready [0] served).param 0 1 = (0 : RegionId).val ∧ ((ready [0] served).region 0).state ≠ .empty) ∧
    (let s := ready (defining 5 0x800 0x8000) served
     s.param 0 1 = (1 : RegionId).val ∧ (s.region 1).state = .empty ∧ s.param 2 5 % 4096 ≠ 0) ∧
    ((ready (defining 5 0x40000 0x8020) served).param 14 5 % 64 ≠ 0) ∧
    (let s := ready (defining 5 (2 ^ 40 - 4096) (2 ^ 40 - 64)) served
     s.param 2 5 + s.param 7 5 = 2 ^ 40 ∧ s.param 14 5 + tagAreaBytes (s.param 7 5 / s.param 12 2) = 2 ^ 40) :=
  ⟨(reset_takes _).1, by decide +kernel, ⟨(reset_takes _).2, by decide +kernel⟩, by decide +kernel, by decide +kernel, by decide +kernel⟩

theorem witness_DefineRegionChecksAndDefines :
    let s (label : Byte) (base tagBase : Nat) := ready (defining label base tagBase) served
    let good := s 5 0x40000 0x41000
    good.takesCommand ∧ good.param 0 1 = (1 : RegionId).val ∧ (good.region 1).state = .empty ∧ good.param 2 5 % 4096 = 0 ∧
    good.param 7 5 ≠ 0 ∧ good.param 7 5 % 4096 = 0 ∧ good.param 2 5 + good.param 7 5 ≤ 2 ^ 40 ∧ good.param 12 2 = 512 ∧
    good.param 14 5 % 64 = 0 ∧ good.param 14 5 + tagAreaBytes (good.param 7 5 / good.param 12 2) ≤ 2 ^ 40 ∧ good.param 19 1 = 1 ∧
    good.param 23 1 = ReadAction.code .poison ∧ good.param 24 1 = MergeMode.code .delta ∧
    good.param 25 1 = TagPolicy.code .writeThrough ∧
    (let g := gDefined 5 0x40000 0x41000
     overlaps g.base g.size g.tagBase g.tagBytes = false ∧
       ∀ q, q ≠ (1 : RegionId) → (good.region q).state ≠ .empty →
         overlaps g.base g.size (good.region q).base (good.region q).size = false ∧
         overlaps g.base g.size (good.region q).tagBase (good.region q).tagBytes = false ∧
         overlaps g.tagBase g.tagBytes (good.region q).base (good.region q).size = false ∧
         overlaps g.tagBase g.tagBytes (good.region q).tagBase (good.region q).tagBytes = false ∧ g.label ≠ (good.region q).label) :=
  ⟨(reset_takes _).2, by decide +kernel⟩

theorem witness_DefineRegionChecksAndDefines_conflicts :
    let g8' := served.region 0
    (let g := gDefined 5 0x40000 0x40FC0
     overlaps g.base g.size g.tagBase g.tagBytes = true) ∧
    (let g := gDefined 5 0x10000 0x41000
     (0 : RegionId) ≠ 1 ∧ g8'.state ≠ .empty ∧ overlaps g.base g.size g8'.base g8'.size = true) ∧
    (let g := gDefined 5 0x20000 0x41000
     overlaps g.base g.size g8'.tagBase g8'.tagBytes = true) ∧
    (let g := gDefined 5 0x40000 0x10FC0
     overlaps g.tagBase g.tagBytes g8'.base g8'.size = true) ∧
    (let g := gDefined 5 0x40000 0x20000
     overlaps g.tagBase g.tagBytes g8'.tagBase g8'.tagBytes = true) ∧
    (gDefined 70 0x40000 0x41000).label = g8'.label := by decide +kernel

/-- Region 0 CONFIGURED and formatted. -/
def configured : State := region 0 { g8 with state := .configured } served

theorem witness_ClearRegionEmptiesTheRecord :
    let held := (slot 0 { aRead 0 1 with region := some 0 } configured).withObt { configured.obt with admission := [0] }
    (ready [16] served).takesCommand ∧ (ready [0] configured).takesCommand ∧ (ready [0] held).takesCommand ∧
    16 ≤ (ready [16] served).param 0 1 ∧
    ((ready [0] served).param 0 1 = (0 : RegionId).val ∧ ((ready [0] served).region 0).state ≠ .configured) ∧
    ((ready [0] configured).param 0 1 = (0 : RegionId).val ∧ ((ready [0] configured).region 0).state = .configured ∧
      ∀ i ∈ (ready [0] configured).obt.admission, ((ready [0] configured).slot i).region ≠ some 0) ∧
    (((ready [0] held).region 0).state = .configured ∧
      ∃ i ∈ (ready [0] held).obt.admission, ((ready [0] held).slot i).region = some 0) :=
  ⟨(reset_takes _).2, ready_takes _ _ rfl (by decide), ready_takes _ _ rfl (by decide), by decide +kernel⟩

theorem witness_SetAccessReplacesThePermissions :
    let s := ready [0, 2, 1, 0, 0, 0, 0, 0, 2] served
    s.takesCommand ∧ (ready [15, 0, 0, 0, 0, 0, 0, 0, 3] served).takesCommand ∧
    2 < (ready [15, 0, 0, 0, 0, 0, 0, 0, 3] served).param (1 + (7 : Fin 8).val) 1 ∧ 16 ≤ (ready [16] served).param 0 1 ∧
    s.param 0 1 = (0 : RegionId).val ∧
    (∀ k : Fin 8, s.param (1 + k.val) 1 =
      (vget #v[Permission.readWrite, .read, .none, .none, .none, .none, .none, .readWrite] k).code) ∧
    (s.region 0).state ≠ .empty ∧
    ((ready [15] served).param 0 1 = (15 : RegionId).val ∧ ((ready [15] served).region 15).state = .empty ∧
      ∀ k : Fin 8, (ready [15] served).param (1 + k.val) 1 = (vget (Vector.replicate 8 Permission.none) k).code) :=
  ⟨(reset_takes _).2, (reset_takes _).2, by decide +kernel⟩

theorem witness_MapRequesterAndUnmappedPolicy :
    let s (a b : Byte) := ready [a, b] State.reset
    (∀ a b, (s a b).takesCommand) ∧ 64 ≤ (s 64 0).param 0 1 ∧ (8 ≤ (s 0 8).param 1 1 ∧ (s 0 8).param 1 1 ≠ 255) ∧
    (8 ≤ (s 0 254).param 1 1 ∧ (s 0 254).param 1 1 ≠ 255) ∧
    ((s 63 7).param 0 1 = (63 : Fin 64).val ∧ (s 63 7).param 1 1 = (7 : Fin 8).val) ∧ (s 0 255).param 1 1 = 255 ∧
    (s 0 0).param 0 1 = 0 ∧ (s 1 0).param 0 1 = 1 ∧ 1 < (s 2 0).param 0 1 :=
  ⟨fun _ _ => (reset_takes _).1, by decide +kernel⟩

theorem witness_QueryRegionCopiesTheRecord :
    let s := ready [0] served
    s.takesCommand ∧ 16 ≤ (ready [16] served).param 0 1 ∧ s.param 0 1 = (0 : RegionId).val ∧ (s.region 0).base < 2 ^ 40 ∧
    (s.region 0).size < 2 ^ 40 ∧ (s.region 0).blockSize < 2 ^ 16 ∧ (s.region 0).blockCount < 2 ^ 32 ∧
    (s.region 0).tagBase < 2 ^ 40 ∧ (s.region 0).tagBytes < 2 ^ 40 ∧ (s.region 0).frontier < 2 ^ 32 ∧
    (s.region 0).errorCount < 2 ^ 16 ∧ (s.region 0).warnThreshold < 2 ^ 16 ∧ (s.region 0).fenceThreshold < 2 ^ 16 :=
  ⟨(reset_takes _).2, by decide +kernel⟩

theorem witness_FlushWritesBackItsScope_demand :
    let d := (line 5 dirtyLine served).withTc { (line 5 dirtyLine served).tc with flushes := [⟨.command, none, [(0, 0)], 0⟩] }
    (d.line 5).key = some (0, 0) ∧ (∃ f ∈ d.tc.flushes, ((0, 0) : RegionId × Nat) ∈ f.keys) ∧ (d.line 5).state = .dirty ∧
    (d.line 5).retryTimer = none ∧ (d.line 5).through = 0 ∧ (line 5 dirtyLine served).tc.flushes = [] ∧
    ({ dirtyLine with state := .clean } : Line).state ≠ .dirty ∧ ({ dirtyLine with retryTimer := some 32 } : Line).retryTimer ≠ none ∧
    ({ dirtyLine with through := 1 } : Line).through ≠ 0 := by decide +kernel

theorem witness_FlushWritesBackItsScope :
    let d := line 5 dirtyLine served
    let listed (s : State) (scope : Option RegionId) : List LineId := allLines.filter fun l =>
      ((s.line l).state == .dirty || (s.line l).state == .cleaning || (s.line l).state == .stranded) &&
        (match (s.line l).key with
          | some k => scope.all (· == k.1)
          | none => false)
    (ready [255] served).takesCommand ∧ (ready [255] d).takesCommand ∧
    (16 ≤ (ready [254] served).param 0 1 ∧ (ready [254] served).param 0 1 ≠ 255) ∧ (ready [255] served).param 0 1 = 255 ∧
    (ready [0] d).param 0 1 = (0 : RegionId).val ∧ listed (ready [255] served) none = [] ∧ listed (ready [255] d) none = [5] ∧
    listed (ready [0] d) (some 0) = [5] ∧ listed (ready [1] d) (some 1) = [] :=
  ⟨(reset_takes _).2, ready_takes _ _ rfl (by decide), by decide +kernel⟩

/-! ## Witnesses: lifecycle and health -/

theorem witness_ActivateBringsTheRegionIntoService :
    let part := region 0 { g8 with state := .configured, frontier := 7 } served
    let four := jobs [job 1 .scrub, job 2 .scrub, job 3 .scrub, job 4 .scrub] part
    (ready [0] configured).takesCommand ∧ (ready [0] part).takesCommand ∧ (ready [0] four).takesCommand ∧
    (ready [0] configured).work = [] ∧ 16 ≤ (ready [16] configured).param 0 1 ∧ ((ready [0] served).region 0).state ≠ .configured ∧
    ((ready [0] configured).param 0 1 = (0 : RegionId).val ∧ ((ready [0] configured).region 0).state = .configured ∧
      ((ready [0] configured).region 0).blockCount ≤ ((ready [0] configured).region 0).frontier) ∧
    (((ready [0] part).region 0).state = .configured ∧ ((ready [0] part).region 0).frontier < ((ready [0] part).region 0).blockCount ∧
      (ready [0] part).su.jobs.length < 4 ∧ 4 ≤ (ready [0] four).su.jobs.length) :=
  ⟨ready_takes _ _ rfl (by decide), ready_takes _ _ rfl (by decide), ready_takes _ _ rfl (by decide), by decide +kernel⟩

theorem witness_DeactivateDrainsTheRegion :
    let s := ready [0] served
    s.takesCommand ∧ s.work = [] ∧ 16 ≤ (ready [16] served).param 0 1 ∧ s.param 0 1 = (0 : RegionId).val ∧
    ((ready [0] configured).region 0).state = .configured ∧ (s.region 0).state = .online ∧ s.su.jobs = [] ∧
    (∀ e ∈ s.obt.entries, e.region ≠ 0) ∧ ∀ l, (s.line l).key = none :=
  ⟨(reset_takes _).2, by decide +kernel⟩

theorem witness_UnfenceClearAndLockHealth :
    (ready [16] served).takesCommand ∧ (ready [0] served).takesCommand ∧ 16 ≤ (ready [16] served).param 0 1 ∧
    (ready [0] served).param 0 1 = (0 : RegionId).val ∧ ((ready [0] served).region 0).state ≠ .empty ∧
    ((ready [1] served).param 0 1 = (1 : RegionId).val ∧ ((ready [1] served).region 1).state = .empty) :=
  ⟨(reset_takes _).2, (reset_takes _).2, by decide +kernel⟩

theorem witness_SetHealthUnlessLocked :
    let s (ps : List Byte) := ready ([0] ++ ps) served
    let locked := region 0 { g8 with healthLocked := true } served
    (∀ ps, (s ps).takesCommand) ∧ 16 ≤ (ready [16] served).param 0 1 ∧ (s []).param 0 1 = (0 : RegionId).val ∧
    ((ready [0] locked).region 0).healthLocked = true ∧ ((s []).region 0).healthLocked = false ∧
    65535 < (s [0, 0, 1]).param 1 4 ∧ 65535 < (s [0, 0, 0, 0, 0, 0, 1]).param 5 4 ∧
    1 < (s [0, 0, 0, 0, 0, 0, 0, 0, 2]).param 9 1 ∧
    (let t := s [255, 255, 0, 0, 255, 255, 0, 0, 1]
     t.param 1 4 = 65535 ∧ t.param 5 4 = 65535 ∧ t.param 9 1 = bit true) :=
  ⟨fun _ => (reset_takes _).2, by decide +kernel⟩

theorem witness_HealthReportCountsWarnsAndFences :
    let g : Region := { g8 with warnThreshold := 1, fenceThreshold := 1, fenceEnable := true }
    let s := region 0 g served
    (1 = if (s.region 0).errorCount < 65535 then (s.region 0).errorCount + 1 else (s.region 0).errorCount) ∧
    (true = true ↔ (s.region 0).warnThreshold ≠ 0 ∧ (s.region 0).warnThreshold ≤ 1 ∧ (s.region 0).warnReported = false) ∧
    (true = true ↔ ((s.region 0).state = .online ∨ (s.region 0).state = .formatting) ∧ (s.region 0).fenceEnable = true ∧
      (s.region 0).fenceThreshold ≠ 0 ∧ (s.region 0).fenceThreshold ≤ 1 ∧ (s.region 0).fenced = false) ∧
    (let f := region 0 { g8 with errorCount := 65535 } served
     65535 = if (f.region 0).errorCount < 65535 then (f.region 0).errorCount + 1 else (f.region 0).errorCount) := by decide +kernel

/-! ## Witnesses: the Sweep Unit -/

theorem witness_FormatStartsANewEpoch :
    let four := jobs [job 1 .scrub, job 2 .scrub, job 3 .scrub, job 4 .scrub] served
    (ready [0] served).takesCommand ∧ (ready [0] four).takesCommand ∧ (ready [0] served).work = [] ∧
    16 ≤ (ready [16] served).param 0 1 ∧ (ready [0] served).param 0 1 = (0 : RegionId).val ∧
    ((ready [0] configured).region 0).state ≠ .online ∧ ((ready [0] served).region 0).state = .online ∧
    4 ≤ (ready [0] four).su.jobs.length ∧ (ready [0] served).su.jobs.length < 4 ∧
    (13 : Epoch).toNat = (if ((ready [0] served).region 0).epoch.toNat = 127 then 1
      else (((ready [0] served).region 0).epoch.toNat + 1) % 128) :=
  ⟨(reset_takes _).2, ready_takes _ _ rfl (by decide), by decide +kernel⟩

theorem witness_ScrubAndReblankAreQueued :
    let s := ready [0, 7, 0, 0, 0, 1, 0, 0, 0] served
    let r := { job 1 .scrub with state := .running, step := .working }
    let one := jobs [r] s
    s.takesCommand ∧ one.takesCommand ∧ s.work = [] ∧ (Instr.scrub = .scrub ∧ JobKind.scrub = .scrub) ∧
    16 ≤ (ready [16] served).param 0 1 ∧ s.param 0 1 = (0 : RegionId).val ∧ ((ready [0] configured).region 0).state ≠ .online ∧
    (s.region 0).state = .online ∧ (ready [0] served).param 5 4 = 0 ∧
    (let t := ready [0, 8, 0, 0, 0, 1, 0, 0, 0] served
     (t.region 0).blockCount < t.param 1 4 + t.param 5 4) ∧
    s.param 5 4 ≠ 0 ∧ s.param 1 4 + s.param 5 4 ≤ (s.region 0).blockCount ∧
    4 ≤ (jobs [job 1 .scrub, job 2 .scrub, job 3 .scrub, job 4 .scrub] s).su.jobs.length ∧
    (one.su.jobs = r :: [] ∧ one.su.jobs.length < 4 ∧ r.state ≠ .queued) ∧ s.su.jobs = [] :=
  ⟨(reset_takes _).2, ready_takes _ _ rfl (by decide), by decide +kernel⟩

/-- A running job at its first block, in a region of this tag policy, with this work on the block. -/
def sweeping (k : JobKind) (t : TagPolicy) (w : BlockWork) : State :=
  let j : Job := { job 1 k with state := .running, step := .working, formatEpoch := if k = .format then some 12 else none }
  (jobs [j] (region 0 { g8 with tagPolicy := t } served)).setBlockWork w

theorem witness_ScrubAndReblankAreQueued_handed :
    let w : BlockWork := ⟨12, none, 0, false⟩
    (∀ k t, ∃ j, (sweeping k t w).su.jobs = j :: [] ∧ j.kind = k ∧ j.region = 0 ∧ j.position = 0 ∧
      (k = .format → j.formatEpoch = some 12) ∧
      ((sweeping k t w).region 0).epoch = 12 ∧ ((sweeping k t w).region 0).tagPolicy = t ∧ (sweeping k t w).su.work.epoch = 12) ∧
    (⟨0, 0, 70, false, 12⟩ : Tag).epoch = 12 ∧ (⟨0, 0, 70, false, 11⟩ : Tag).epoch ≠ 12 ∧
    tagEvaluation g8 12 0 ⟨0, 0, 70, false, 12⟩ = .sound ∧ tagEvaluation g8 12 0 ⟨0, 0, 70, true, 12⟩ = .blank ∧
    tagEvaluation g8 12 0 ⟨0, 0, 70, false, 11⟩ = .stale ∧ tagEvaluation g8 12 0 ⟨0, 1, 70, false, 12⟩ = .misplaced ∧
    tagEvaluation g8 12 0 ⟨0, 0, 71, false, 12⟩ = .foreign :=
  ⟨fun k t => ⟨_, rfl, rfl, rfl, rfl, fun h => by subst h; rfl, rfl, rfl, rfl⟩, by decide +kernel⟩

theorem witness_ScrubAndReblankAreQueued_completions :
    let q := aRequest .dataRead (.sweepRead 4)
    let x (n : Nat) : Line := { dirtyLine with through := n }
    let qw := aRequest .tagWrite (.tagWrite (some 5) .sweep 0)
    (∀ n f g, let s := inFlight q (sweeping .scrub .writeBack ⟨12, some ⟨g, 0, 70, false, 12⟩, n, f⟩)
      s.pins.porst = false ∧ (s.downTag 0).state = .inFlight ∧ (s.downTag 0).request = some q ∧ s.su.jobs ≠ [] ∧
      s.su.work.readsOut = n ∧ s.su.work.failed = f ∧ s.su.work.tag = some ⟨g, 0, 70, false, 12⟩) ∧
    q.issuer = .sweepRead 4 ∧ q.kind = .dataRead ∧ ([1, 2] : List Byte).length = q.length ∧
    (∀ n, let s := inFlight qw (line 5 (x n) (sweeping .reblank .writeThrough ⟨12, none, 0, false⟩))
      s.pins.porst = false ∧ (s.downTag 0).state = .inFlight ∧ (s.downTag 0).request = some qw ∧ s.line 5 = x n ∧
      (x n).key = some (0, 0) ∧ (x n).state = .dirty ∧ (x n).through = n ∧ (x n).throughFault = false ∧ s.tc.flushes = []) ∧
    ¬ ((x 2).state = .dirty ∧ (x 2).through = 1 ∧ (x 2).throughFault = false) ∧ qw.kind = .tagWrite ∧
    qw.issuer = .tagWrite (some 5) .sweep 0 :=
  ⟨fun _ _ _ => ⟨rfl, rfl, rfl, by show _ :: _ ≠ []; simp, rfl, rfl, rfl⟩, rfl, rfl, rfl,
    fun _ => ⟨rfl, rfl, rfl, rfl, rfl, rfl, rfl, rfl, rfl⟩, by decide, rfl, rfl⟩

theorem witness_JobsTakeTheNextFreeId :
    let u := (jobs [job 254 .scrub, job 1 .scrub, job 2 .scrub] State.reset).su
    u.jobs.length ≤ 4 ∧ u.nextId ≠ 0 ∧ ({ u with nextId := 255 } : SweepUnit).jobs.all (fun j => j.id != 255) = true ∧
    State.reset.su.jobs = [] := by decide +kernel

theorem witness_CancelSweepEndsTheJobByItsState :
    let r (st : JobState) (sp : JobStep) : Job := { job 1 .scrub with state := st, step := sp }
    let s (js : List Job) := ready [1] (jobs js served)
    (∀ js, (s js).takesCommand) ∧ (s []).work = [] ∧ (ready [0] served).param 0 1 = 0 ∧
    (∀ j ∈ (s [job 2 .scrub]).su.jobs, j.id.toNat ≠ (s [job 2 .scrub]).param 0 1) ∧ (s []).param 0 1 = 1 ∧
    (job 1 .format).kind = .format ∧
    (let t := s [{ job 2 .scrub with state := .running, step := .working }, job 1 .scrub]
     t.su.jobs = [{ job 2 .scrub with state := .running, step := .working }] ++ job 1 .scrub :: [] ∧
       (job 1 .scrub).state = .queued ∧ (job 1 .scrub).id.toNat = t.param 0 1 ∧
       ∀ k ∈ [({ job 2 .scrub with state := .running, step := .working } : Job)] ++ [], k.id ≠ (job 1 .scrub).id) ∧
    (∀ st sp, (s [r st sp]).su.jobs = [] ++ r st sp :: []) ∧ (r .running .working).step = .working ∧
    (r .running .pacing).step = .pacing ∧ (r .finishing .none).state = .finishing ∧ (r .running .waiting).step = .waiting :=
  ⟨fun _ => ready_takes _ _ rfl (fun h => nomatch (show MailboxState.idle = .busy from h)), rfl, by decide +kernel,
    by decide +kernel, by decide +kernel, rfl, by decide +kernel,
    fun _ _ => rfl, rfl, rfl, rfl, rfl⟩

theorem witness_SetPacingTimeoutAndShare :
    let s (ps : List Byte) := ready ps State.reset
    (∀ ps, (s ps).takesCommand) ∧ (s [255, 255]).param 0 4 = 65535 ∧ 65535 < (s [0, 0, 1]).param 0 4 ∧ (s [1]).param 0 2 = 1 ∧
    (s [255, 3]).param 0 2 = 1023 ∧ (s []).param 0 2 = 0 ∧ 1023 < (s [0, 4]).param 0 2 ∧ (s [1]).param 0 1 = 1 ∧
    (s [16]).param 0 1 = 16 ∧ (s []).param 0 1 = 0 ∧ 16 < (s [17]).param 0 1 :=
  ⟨fun _ => (reset_takes _).1, by decide +kernel⟩

theorem witness_QuerySweepShowsTheQueue :
    let s := ready [] (jobs [job 1 .scrub] State.reset)
    s.takesCommand ∧ s.su.pacing < 2 ^ 16 ∧ s.su.jobs.length ≤ 4 ∧ s.su.jobs[0]? = some (job 1 .scrub) ∧
    (job 1 .scrub).first < 2 ^ 32 ∧ (job 1 .scrub).count < 2 ^ 32 :=
  ⟨ready_takes _ _ rfl (by decide), by decide +kernel⟩

theorem witness_PacingExpiryJoinsTheNextBlock :
    let j : Job := { job 1 .scrub with state := .running, step := .pacing }
    let s := (jobs [j] served).withSu { (jobs [j] served).su with pacingTimer := some 100 }
    State.reset.su.pacingTimer = none ∧ s.su.pacingTimer = some 100 ∧ s.su.jobs = j :: [] := ⟨rfl, rfl, rfl⟩

theorem witness_PacingExpiryJoinsTheNextBlock_blockEnd :
    let j (k : JobKind) (pos : Nat) (c : Bool) : Job :=
      { job 1 k with position := pos, state := .running, step := .working, cancelRequested := c }
    let s (k : JobKind) (pos : Nat) (c : Bool) := jobs [j k pos c, job 2 .scrub] served
    (∀ k pos c, (s k pos c).su.jobs = j k pos c :: [job 2 .scrub] ∧ (j k pos c).kind = k ∧ (j k pos c).cancelRequested = c ∧
      (j k pos c).position = pos ∧ (j k pos c).first + (j k pos c).count = 4) ∧
    (job 2 .scrub).state = .queued ∧ served.su.pacing ≠ 0 ∧ (served.withSu { served.su with pacing := 0 }).su.pacing = 0 ∧
    (let flushable (s : State) := allLines.filter fun l =>
       ((s.line l).state == .dirty || (s.line l).state == .cleaning || (s.line l).state == .stranded) &&
         (match (s.line l).key with
           | some k => k.1 == 0
           | none => false)
     flushable (s .format 4 false) = [] ∧ flushable (line 5 dirtyLine (s .format 4 false)) = [5]) ∧
    (served.withTc { served.tc with flushes := [⟨.job, some 0, [(0, 3)], 1⟩] }).tc.flushes = [⟨.job, some 0, [(0, 3)], 1⟩] ∧
    (jobs [j .scrub 4 false] served).su.jobs = j .scrub 4 false :: [] ∧
    (let g := region 0 { g8 with state := .formatting } served
     (g.region 0).state = .formatting ∧ 7 + 1 = (g.region 0).blockCount) :=
  ⟨fun _ _ _ => ⟨rfl, rfl, rfl, rfl, rfl⟩, rfl, by decide, rfl, by decide +kernel, rfl, rfl, by decide +kernel⟩

/-! ## Witnesses: resets -/

theorem witness_FabricResetAbandonsTheSlots :
    let s := slot 1 { aRead 0 1 with state := .passing } (after (.readRequest 3 2 0x10000 0) admitting)
    s.work = [] ∧ s.mp.long = none ∧ (s.slot 0).state = .admitting ∧ (s.slot 1).state = .passing ∧
    ∀ i, (s.slot i).state = .free ∧ s.slot i = Slot.powerOn ∨ (s.slot i).state = .admitting ∨ (s.slot i).state = .responding ∨
      (s.slot i).state = .passing := by decide +kernel

/-- Reset with slot 0 ACTIVE on block 0 of region 0, its part's reads outstanding as given, and block 0 held by `holders`. -/
def working (committed : Bool) (readsOut : Nat) (holders : List (OpId × Mode)) : State :=
  (slot 0 { aRead 0x10000 2 with
      state := .active, region := some 0, committed := committed
      parts := [{ Part.initial 0 0 2 0 [] with readsOut := readsOut }] } served).withObt
    { served.obt with entries := [⟨0, 0, holders, [(.slot 0, .shared)]⟩] }

set_option synthInstance.maxSize 4096 in
set_option synthInstance.maxHeartbeats 400000 in
theorem witness_FabricResetAbandonsTheSlots_active :
    let waits := working false 0 [(.sweep, .exclusive)]
    let s (c : Bool) (n : Nat) := working c n [(.slot 0, .exclusive)]
    (∀ c n, (s c n).work = [] ∧ (s c n).mp.long = none ∧ ((s c n).slot 0).state = .active ∧ ((s c n).slot 0).region = some 0 ∧
      ((s c n).slot 0).committed = c ∧ ((s c n).slot 0).parts.map (·.readsOut) = [n] ∧ ((s c n).slot 0).parts.map (·.block) = [0] ∧
      (s c n).obt.entry 0 0 = some ⟨0, 0, [(.slot 0, .exclusive)], [(.slot 0, .shared)]⟩) ∧
    (∀ j, j ≠ 0 → ((s true 0).slot j).state = .free) ∧ (∀ j, j ≠ 0 → (waits.slot j).state = .free) ∧
    waits.work = [] ∧ waits.mp.long = none ∧ (waits.slot 0).state = .active ∧ (waits.slot 0).parts.map (·.block) = [0] ∧
    waits.obt.entries = [⟨0, 0, [(.sweep, .exclusive)], [(.slot 0, .shared)]⟩] ∧
    (∀ h ∈ [(OpId.sweep, Mode.exclusive)], h.1 ≠ .slot 0) :=
  ⟨fun _ _ => ⟨rfl, rfl, rfl, rfl, rfl, rfl, rfl, rfl⟩, by decide +kernel, by decide +kernel, rfl, rfl, rfl, rfl, rfl, by decide⟩

theorem witness_PowerOnResetRestoresTheUnits :
    (after .porstAsserted served).pins.porst = true ∧ State.reset.pins.porst = false := by decide +kernel

theorem witness_ResetEngineKeepsTheSettings_requests :
    let e := State.reset.withMp { State.reset.mp with mailbox := .busy, long := some (.resetEngine false) }
    let q := { aRequest .dataRead (.part 0 0 0) with inReset := true }
    let queued := e.withMa { e.ma with workQueue := [q] }
    queued.mp.long = some (.resetEngine false) ∧ q ∈ queued.ma.tagQueue ++ queued.ma.workQueue ++ queued.ma.sweepQueue ∧
    q.inReset = true ∧ (inFlight q e).mp.long = some (.resetEngine false) ∧ ((inFlight q e).downTag 0).state = .inFlight ∧
    ((inFlight q e).downTag 0).request = some q :=
  ⟨rfl, by decide +kernel, rfl, rfl, rfl, rfl⟩

theorem witness_ResetEngineKeepsTheSettings :
    let s := ready [] configured
    let e (d : Bool) := State.reset.withMp { State.reset.mp with mailbox := .busy, long := some (.resetEngine d) }
    s.takesCommand ∧ s.work = [] ∧ s.tu = .powerOn ∧ s.su.jobs = [] ∧ s.ma.tagQueue = [] ∧ s.ma.workQueue = [] ∧
    s.ma.sweepQueue = [] ∧ (∀ t, s.downTag t = DownTag.powerOn) ∧
    (∀ r, (s.region r).state = .empty ∨ (s.region r).state = .configured) ∧ (e true).mp.long = some (.resetEngine true) ∧
    (∀ i, ((e true).slot i).inReset = false) ∧ (e true).su.jobs = [] ∧ (∀ r, ((e true).region r).state ≠ .draining) ∧
    (∀ q ∈ (e true).ma.tagQueue ++ (e true).ma.workQueue ++ (e true).ma.sweepQueue, q.inReset = false) ∧
    (∀ t, ((e true).downTag t).request = none) ∧ (slot 0 { Slot.powerOn with inReset := true } (e true)).mp.long = (e true).mp.long ∧
    ((slot 0 { Slot.powerOn with inReset := true } (e true)).slot 0).inReset = true ∧
    (jobs [job 1 .scrub] (e true)).su.jobs ≠ [] ∧ ((region 0 { g8 with state := .draining } (e true)).region 0).state = .draining :=
  ⟨ready_takes _ _ rfl (by decide), rfl, rfl, rfl, rfl, rfl, rfl, by decide +kernel, by decide +kernel, rfl, by decide +kernel, rfl,
    by decide +kernel, by decide +kernel, by decide +kernel, rfl, by decide +kernel, by decide +kernel, by decide +kernel⟩

/-- A command can be handed over with slots and regions as given: a part with work in every kind of slot, a working job and one
queued, and a region whose drain waits for an entry. -/
def atWork : State :=
  let s := jobs [{ job 1 .scrub with state := .running, step := .working }, job 2 .scrub]
    (slot 1 { aRead 0x10000 2 with state := .admitting } (slot 2 { aRead 0x10000 2 with state := .responding }
      (slot 3 { aRead 0 2 with state := .passing } (slot 4 { aRead 0 2 with state := .abandoned }
        (working false 1 [(.slot 0, .exclusive)])))))
  ready [] (s.withObt { s.obt with admission := [1], bufferWait := [(0, 1)] })

set_option synthInstance.maxSize 4096 in
set_option synthInstance.maxHeartbeats 400000 in
theorem witness_ResetEngineKeepsTheSettings_atWork :
    let s := atWork
    s.takesCommand ∧ s.work = [] ∧
    s.su.jobs = [{ job 1 .scrub with state := .running, step := .working }] ++ [job 2 .scrub] ∧ (job 2 .scrub).state = .queued ∧
    (∀ r, (s.region r).state ≠ .empty → (s.region r).state ≠ .configured → r = 0) ∧
    s.obt.entries = [⟨0, 0, [(.slot 0, .exclusive)], [(.slot 0, .shared)]⟩] ∧
    (∀ i, (s.slot i).state ≠ .classified ∧ ((s.slot i).state = .active → i = 0)) ∧
    (s.slot 0).region = some 0 ∧ (s.slot 0).parts.map (·.block) = [0] ∧ (s.slot 0).parts.map (·.readsOut) = [1] ∧
    s.obt.entry 0 0 = some ⟨0, 0, [(.slot 0, .exclusive)], [(.slot 0, .shared)]⟩ :=
  ⟨ready_takes _ _ rfl (by decide), by decide +kernel⟩

set_option synthInstance.maxSize 4096 in
set_option synthInstance.maxHeartbeats 400000 in
theorem witness_ResetEngineKeepsTheSettings_released :
    let s (hs : List (OpId × Mode)) := ready [] (working false 0 hs)
    (∀ hs, (s hs).takesCommand ∧ (s hs).su.jobs = [] ∧ ((s hs).slot 0).state = .active ∧ ((s hs).slot 0).region = some 0 ∧
      ((s hs).slot 0).committed = false ∧ ((s hs).slot 0).parts.map (·.readsOut) = [0] ∧ ((s hs).slot 0).parts.map (·.block) = [0] ∧
      (s hs).obt.entries = [⟨0, 0, hs, [(.slot 0, .shared)]⟩] ∧ (s hs).obt.entry 0 0 = some ⟨0, 0, hs, [(.slot 0, .shared)]⟩) ∧
    (∀ j, j ≠ 0 → ((s []).slot j).state = .free) ∧ (∀ h ∈ [(OpId.sweep, Mode.exclusive)], h.1 ≠ .slot 0) ∧
    ∃ h ∈ [(OpId.slot 0, Mode.exclusive)], h.1 = .slot 0 :=
  ⟨fun _ => ⟨ready_takes _ _ rfl (fun h => nomatch (show MailboxState.idle = .busy from h)), rfl, rfl, rfl, rfl, rfl, rfl, rfl, rfl⟩,
    by decide +kernel, by decide, by decide⟩

/-! ## Witnesses: what every step keeps -/

/-- At reset, and with a command waiting, the laws' premises hold and a step answers a next state. -/
theorem witness_EveryStepKeepsTheLogLaws :
    let s := State.reset.withPending [.readRequest 3 1 0x10000 0]
    logLaw s ∧ alertLaw s ∧ ∃ t, step s = .next t := by
  simp only [logLaw, EventLog.Law, alertLaw]
  exact ⟨⟨by decide, trivial, by decide⟩, fun _ => by decide +kernel, _, rfl⟩

theorem witness_EveryStepKeepsTheOpenBlockLaws :
    let s := admitting.withPending [.admissionExamination]
    entriesLaw s ∧ upstreamLaw s ∧ ∃ t, step s = .next t := by
  simp only [entriesLaw, EntriesLaw, upstreamLaw]
  exact ⟨⟨(fun x h => nomatch (show x ∈ ([] : List Entry) from h)), by decide +kernel⟩,
    by decide +kernel, _, rfl⟩

theorem witness_EveryStepKeepsTagsJobsAndRanges :
    let s := State.reset.withPending [.requestGrant]
    tagsLaw s ∧ jobsLaw s ∧ rangesLaw s ∧ ∃ t, step s = .next t := by
  simp only [jobsLaw, rangesLaw]
  refine ⟨fun t => ?_, by decide +kernel, by decide +kernel, _, rfl⟩
  have h : (State.reset.withPending [.requestGrant]).downTag t = DownTag.powerOn := by
    revert t
    decide +kernel
  rw [h]
  exact rfl

theorem witness_EveryStepKeepsBusyForLongCommands :
    longLaw ((ready [] busy).withPending [.format]) ∧ ∃ t, step ((ready [] busy).withPending [.format]) = .next t :=
  ⟨fun _ => by decide +kernel, _, rfl⟩

theorem witness_EveryStepKeepsThePartHeldInReset :
    let s := (after .porstAsserted served).withPending [.readRequest 3 1 0x10000 16]
    s.pins.porst = true ∧ heldLaw s ∧ ∃ t, step s = .next t :=
  ⟨rfl, fun _ => ⟨rfl, rfl, rfl, rfl, rfl, rfl, rfl, rfl, rfl⟩, _, rfl⟩

theorem witness_EveryStepKeepsRegionsDisjoint :
    let s := (ready (defining 5 0x40000 0x41000) served).withPending [.defineRegion]
    regionsDisjoint s ∧ ∃ t, step s = .next t := by
  simp only [regionsDisjoint]
  exact ⟨by decide +kernel, _, rfl⟩

theorem witness_HealthLockLastsUntilPowerOnReset :
    let s := (region 0 { g8 with healthLocked := true } served).withPending [.frstAsserted]
    (s.region 0).healthLocked = true ∧ (∃ t, step s = .next t) ∧ ∀ addr rest, s.pending ≠ .porstReleased addr :: rest :=
  ⟨by decide +kernel, ⟨_, rfl⟩, fun _ _ h => nomatch h⟩

end Sys2Proof.Tests
end

section
/-! PROOFS. What R12 compares of the region records, and that every step keeps the defined regions disjoint: the Region Unit's own
commands by the record they put in, every other command because it keeps each record's claim. -/

namespace Sys2Proof.Machine

/-! ## What R12 compares -/

/-- All of a record that R12 compares: whether it is defined, its label, its data range and its tag area. -/
def Region.claim (g : Region) : Bool × BitVec 8 × Nat × Nat × Nat × Nat :=
  (g.isDefined, g.label, g.base, g.size, g.tagBase, g.blockCount)

/-- Two records with the same claim agree on every field that R12 compares. -/
theorem Region.claim_eq {g h : Region} (e : g.claim = h.claim) :
    g.isDefined = h.isDefined ∧ g.label = h.label ∧ g.base = h.base ∧ g.size = h.size ∧ g.tagBase = h.tagBase ∧
      g.tagBytes = h.tagBytes := by
  simp only [Region.claim, Prod.mk.injEq] at e
  obtain ⟨hd, hl, hb, hs, ht, hc⟩ := e
  exact ⟨hd, hl, hb, hs, ht, congrArg tagAreaBytes hc⟩

theorem Region.isDefined_iff (g : Region) : g.isDefined = true ↔ g.state ≠ .empty := bne_iff_ne

/-- A conflict looks at the claims alone. -/
theorem Region.conflicts_of_claims {g g' h h' : Region} (e : g'.claim = g.claim) (k : h'.claim = h.claim) :
    g'.conflicts h' = g.conflicts h := by
  obtain ⟨-, hl, hb, hs, ht, hT⟩ := Region.claim_eq e
  obtain ⟨kd, kl, kb, ks, kt, kT⟩ := Region.claim_eq k
  simp only [Region.conflicts, hl, hb, hs, ht, hT, kd, kl, kb, ks, kt, kT]

theorem overlaps_comm (a n b m : Nat) : overlaps a n b m = overlaps b m a n := Bool.and_comm _ _

/-- Between defined records a conflict is mutual. -/
theorem Region.conflicts_comm {g h : Region} (dg : g.isDefined = true) (dh : h.isDefined = true) :
    g.conflicts h = h.conflicts g := by
  unfold Region.conflicts
  rw [dg, dh, overlaps_comm g.base g.size h.base, overlaps_comm g.base g.size h.tagBase, overlaps_comm g.tagBase g.tagBytes h.base,
    overlaps_comm g.tagBase g.tagBytes h.tagBase, Bool.beq_comm (a := g.label)]
  ac_rfl

/-- The disjointness of regions is decided by their claims alone. -/
theorem regionsDisjoint_of_claims {s t : State} (h : regionsDisjoint s) (e : ∀ r, (t.region r).claim = (s.region r).claim) :
    regionsDisjoint t := by
  intro r q ne d
  rw [Region.conflicts_of_claims (e r) (e q)]
  exact h r q ne (by rwa [← (Region.claim_eq (e r)).1])

/-- With the same region records the regions are disjoint as before. -/
theorem regionsDisjoint_of_regions {s t : State} (h : regionsDisjoint s) (e : t.ru.regions = s.ru.regions) :
    regionsDisjoint t :=
  regionsDisjoint_of_claims h fun r => by rw [State.region, e, State.region]

/-- A record changed outside its claim leaves the regions disjoint. -/
theorem regionsDisjoint_updRegion {s : State} (r : RegionId) (f : Region → Region)
    (e : (f (s.region r)).claim = (s.region r).claim) (h : regionsDisjoint s) : regionsDisjoint (s.updRegion r f) := by
  refine regionsDisjoint_of_claims h fun q => ?_
  rw [updRegion_region]
  split
  · next hq => rw [← hq]; exact e
  · rfl

/-- A record put in that conflicts with no other leaves the regions disjoint (R12). -/
theorem regionsDisjoint_putRegion {s : State} {r : RegionId} {g : Region}
    (hg : g.isDefined = true → ∀ q, q ≠ r → g.conflicts (s.region q) = false) (h : regionsDisjoint s) :
    regionsDisjoint (s.updRegion r fun _ => g) := by
  intro a b ne da
  rw [updRegion_region, updRegion_region]
  rw [updRegion_region] at da
  by_cases ha : r = a
  · subst ha
    rw [if_pos rfl] at da
    rw [if_pos rfl, if_neg ne]
    exact hg da b ne.symm
  · rw [if_neg ha] at da
    rw [if_neg ha]
    by_cases hb : r = b
    · rw [if_pos hb]
      cases dg : g.isDefined with
      | false => simp [Region.conflicts, dg]
      | true => rw [Region.conflicts_comm da dg]; exact hg dg a (Ne.symm ha)
    · rw [if_neg hb]
      exact h a b ne da

/-- A defined record that moves to another defined state keeps its claim. -/
theorem Region.claim_of_state {g h : Region} (hg : g.state ≠ .empty) (hh : h.state ≠ .empty)
    (e : (g.label, g.base, g.size, g.tagBase, g.blockCount) = (h.label, h.base, h.size, h.tagBase, h.blockCount)) :
    g.claim = h.claim := by
  simp only [Region.claim, (Region.isDefined_iff g).mpr hg, (Region.isDefined_iff h).mpr hh, e]

/-- A state a drain may start from is not EMPTY. -/
theorem RegionState.ne_empty_of_drainable {x : RegionState} (hx : x.drainable = true) : x ≠ .empty := by
  rintro rfl
  exact nomatch hx

/-! ## The Region Unit's commands -/

/-- The check of DEFINE REGION (R12) leaves no conflict with another region. -/
theorem conflicts_of_defineConflict {s : State} {r : RegionId} {g : Region} (hc : defineConflict s r g = false) (q : RegionId)
    (ne : q ≠ r) : g.conflicts (s.region q) = false := by
  simp only [defineConflict, Bool.or_eq_false_iff, allRegions, List.any_eq_false, List.mem_finRange] at hc
  simpa [ne] using hc.2 q trivial

section
variable {s : State} (c : Command) (h : regionsDisjoint s)
include h

/-- A command that ends changes no region. -/
theorem finishCommand_regionsDisjoint (k : ResultCode) : regionsDisjoint (finishCommand k s) :=
  regionsDisjoint_of_regions h rfl

/-- A command on a region keeps the regions disjoint when it does so for the region it names. -/
theorem onRegion_regionsDisjoint {f : RegionId → State → State} (hf : ∀ r, regionsDisjoint (f r s)) :
    regionsDisjoint (onRegion c f s) := by
  unfold onRegion
  split
  · exact finishCommand_regionsDisjoint h _
  · exact hf _

theorem cmdDefineRegion_regionsDisjoint : regionsDisjoint (cmdDefineRegion c s) := by
  refine onRegion_regionsDisjoint c h fun r => ?_
  unfold defineRegion
  split
  · exact finishCommand_regionsDisjoint h _
  · split
    · exact finishCommand_regionsDisjoint h _
    · split
      · exact finishCommand_regionsDisjoint h _
      · next g _ hc =>
        exact finishCommand_regionsDisjoint
          (regionsDisjoint_putRegion (fun _ => conflicts_of_defineConflict (Bool.eq_false_iff.mpr hc)) h) _

theorem cmdClearRegion_regionsDisjoint : regionsDisjoint (cmdClearRegion c s) := by
  refine onRegion_regionsDisjoint c h fun r => ?_
  unfold clearRegion
  split
  · exact finishCommand_regionsDisjoint h _
  · split
    · exact finishCommand_regionsDisjoint h _
    · have hc : (s.region r).cleared.isDefined = false := rfl
      exact finishCommand_regionsDisjoint (regionsDisjoint_putRegion (fun d => absurd d (Bool.eq_false_iff.mp hc)) h) _

theorem cmdSetAccess_regionsDisjoint : regionsDisjoint (cmdSetAccess c s) := by
  unfold cmdSetAccess
  split
  · split
    · exact finishCommand_regionsDisjoint h _
    · exact finishCommand_regionsDisjoint (regionsDisjoint_updRegion _ _ rfl h) _
  · exact finishCommand_regionsDisjoint h _

theorem cmdActivate_regionsDisjoint : regionsDisjoint (cmdActivate c s) := by
  refine (moves_run .refl).regionsDisjoint (onRegion_regionsDisjoint c h fun r => ?_)
  unfold activate
  split
  · exact finishCommand_regionsDisjoint h _
  · next hs =>
    have hd : (s.region r).state ≠ .empty := by simp [Decidable.not_not.mp hs]
    split
    · split
      · exact finishCommand_regionsDisjoint h _
      · have hf := regionsDisjoint_updRegion r (fun g => { g with state := .formatting })
          (Region.claim_of_state (by simp) hd rfl) h
        exact (moves_startNext .refl).regionsDisjoint (regionsDisjoint_of_regions hf rfl)
    · exact finishCommand_regionsDisjoint (regionsDisjoint_updRegion r _ (Region.claim_of_state (by simp) hd rfl) h) _

theorem cmdDeactivate_regionsDisjoint : regionsDisjoint (cmdDeactivate c s) := by
  refine (moves_run .refl).regionsDisjoint (onRegion_regionsDisjoint c h fun r => ?_)
  unfold deactivate
  split
  · next hd =>
    have hs : regionsDisjoint (startLong (.deactivate r) s) := regionsDisjoint_of_regions h rfl
    exact (moves_startDrain (t := startLong (.deactivate r) s) r (RegionState.ne_empty_of_drainable hd) .refl).regionsDisjoint hs
  · exact finishCommand_regionsDisjoint h _

theorem cmdUnfence_regionsDisjoint : regionsDisjoint (cmdUnfence c s) := by
  refine onRegion_regionsDisjoint c h fun r => ?_
  split
  · exact finishCommand_regionsDisjoint h _
  · exact finishCommand_regionsDisjoint (regionsDisjoint_updRegion r _ rfl h) _

theorem cmdSetHealth_regionsDisjoint : regionsDisjoint (cmdSetHealth c s) := by
  refine onRegion_regionsDisjoint c h fun r => ?_
  unfold setHealth
  split
  · exact finishCommand_regionsDisjoint h _
  · split
    · exact finishCommand_regionsDisjoint h _
    · split
      · exact finishCommand_regionsDisjoint h _
      · exact finishCommand_regionsDisjoint (regionsDisjoint_updRegion r _ rfl h) _

theorem cmdClearHealth_regionsDisjoint : regionsDisjoint (cmdClearHealth c s) :=
  onRegion_regionsDisjoint c h fun r => finishCommand_regionsDisjoint (regionsDisjoint_updRegion r _ rfl h) _

theorem cmdLockHealth_regionsDisjoint : regionsDisjoint (cmdLockHealth c s) :=
  onRegion_regionsDisjoint c h fun r => finishCommand_regionsDisjoint (regionsDisjoint_updRegion r _ rfl h) _

/-! ## The other units' commands -/

theorem cmdFormat_regionsDisjoint : regionsDisjoint (cmdFormat c s) := by
  refine (moves_run .refl).regionsDisjoint (onRegion_regionsDisjoint c h fun r => ?_)
  unfold formatRegion
  split
  · exact finishCommand_regionsDisjoint h _
  · next hs =>
    have hd : (s.region r).state ≠ .empty := by simp [Decidable.not_not.mp hs]
    split
    · exact finishCommand_regionsDisjoint h _
    · have hf := regionsDisjoint_updRegion r Region.formatted (Region.claim_of_state (by simp [Region.formatted]) hd rfl) h
      exact (moves_cancelJobs _ .refl).regionsDisjoint (regionsDisjoint_of_regions hf rfl)

theorem queueRange_regionsDisjoint (k : JobKind) (r : RegionId) : regionsDisjoint (queueRange k c r s) := by
  unfold queueRange
  split
  · exact finishCommand_regionsDisjoint h _
  · split
    · exact finishCommand_regionsDisjoint h _
    · exact (moves_startNext .refl).regionsDisjoint (regionsDisjoint_of_regions h rfl)

theorem cmdScrub_regionsDisjoint : regionsDisjoint (cmdScrub c s) := by
  refine (moves_run .refl).regionsDisjoint (onRegion_regionsDisjoint c h fun r => ?_)
  unfold scrubRegion
  split
  · exact finishCommand_regionsDisjoint h _
  · exact queueRange_regionsDisjoint c h _ r

theorem cmdReblank_regionsDisjoint : regionsDisjoint (cmdReblank c s) := by
  refine (moves_run .refl).regionsDisjoint (onRegion_regionsDisjoint c h fun r => ?_)
  unfold reblankRegion
  split
  · exact finishCommand_regionsDisjoint h _
  · exact queueRange_regionsDisjoint c h _ r

theorem cmdCancelSweep_regionsDisjoint : regionsDisjoint (cmdCancelSweep c s) := by
  unfold cmdCancelSweep
  split
  · exact finishCommand_regionsDisjoint h _
  · split
    · exact finishCommand_regionsDisjoint h _
    · split
      · exact finishCommand_regionsDisjoint h _
      · exact (moves_run (moves_cancelJobs _ .refl)).regionsDisjoint (finishCommand_regionsDisjoint h _)

theorem cmdFlush_regionsDisjoint : regionsDisjoint (cmdFlush c s) := by
  unfold cmdFlush
  split
  · exact finishCommand_regionsDisjoint h _
  · exact (moves_makeFlush _ _ .refl).regionsDisjoint (regionsDisjoint_of_regions h rfl)

theorem drainRegions_regionsDisjoint : regionsDisjoint (drainRegions s) := by
  refine regionsDisjoint_of_claims h fun r => ?_
  simp only [drainRegions, State.region, withRu_ru, vget_map]
  split
  · next hd => exact Region.claim_of_state (by simp [Region.beginDrain]) (RegionState.ne_empty_of_drainable hd) rfl
  · rfl

theorem cmdResetEngine_regionsDisjoint : regionsDisjoint (cmdResetEngine s) :=
  (moves_run (moves_push _ (moves_abandonAll (moves_cancelJobs _ .refl)))).regionsDisjoint
    (drainRegions_regionsDisjoint (regionsDisjoint_of_regions h rfl))
end

/-! ## Commands that change no region -/

section
variable (c : Command) (s : State)

theorem cmdQueryRegion_regions : (cmdQueryRegion c s).ru.regions = s.ru.regions := by
  unfold cmdQueryRegion onRegion
  split <;> rfl

theorem cmdMapRequester_regions : (cmdMapRequester c s).ru.regions = s.ru.regions := by
  unfold cmdMapRequester
  split <;> rfl

theorem cmdSetUnmappedPolicy_regions : (cmdSetUnmappedPolicy c s).ru.regions = s.ru.regions := by
  unfold cmdSetUnmappedPolicy
  split <;> rfl

theorem cmdSetPacing_regions : (cmdSetPacing c s).ru.regions = s.ru.regions := by
  unfold cmdSetPacing
  split <;> rfl

theorem cmdSetTimeout_regions : (cmdSetTimeout c s).ru.regions = s.ru.regions := by
  unfold cmdSetTimeout
  split <;> rfl

theorem cmdSetSweepShare_regions : (cmdSetSweepShare c s).ru.regions = s.ru.regions := by
  unfold cmdSetSweepShare
  split <;> rfl

theorem cmdSetLogMask_regions : (cmdSetLogMask c s).ru.regions = s.ru.regions := by
  unfold cmdSetLogMask
  split <;> rfl

theorem cmdSetAlertMask_regions : (cmdSetAlertMask c s).ru.regions = s.ru.regions := by
  unfold cmdSetAlertMask
  split <;> rfl
end

/-! ## Bytes on the bus -/

/-- Every mailbox command keeps the regions disjoint: each of the 25 by its own lemma, and a code that names none is refused. -/
theorem runCommand_regionsDisjoint (c : Command) {s : State} (h : regionsDisjoint s) : regionsDisjoint (runCommand c s) := by
  unfold runCommand
  split
  · exact cmdDefineRegion_regionsDisjoint c h
  · exact cmdClearRegion_regionsDisjoint c h
  · exact regionsDisjoint_of_regions h (cmdQueryRegion_regions c s)
  · exact cmdSetAccess_regionsDisjoint c h
  · exact regionsDisjoint_of_regions h (cmdMapRequester_regions c s)
  · exact regionsDisjoint_of_regions h (cmdSetUnmappedPolicy_regions c s)
  · exact cmdActivate_regionsDisjoint c h
  · exact cmdDeactivate_regionsDisjoint c h
  · exact cmdUnfence_regionsDisjoint c h
  · exact cmdSetHealth_regionsDisjoint c h
  · exact cmdClearHealth_regionsDisjoint c h
  · exact cmdLockHealth_regionsDisjoint c h
  · exact cmdFormat_regionsDisjoint c h
  · exact cmdScrub_regionsDisjoint c h
  · exact cmdReblank_regionsDisjoint c h
  · exact cmdCancelSweep_regionsDisjoint c h
  · exact regionsDisjoint_of_regions h (cmdSetPacing_regions c s)
  · exact regionsDisjoint_of_regions h rfl
  · exact cmdFlush_regionsDisjoint c h
  · exact regionsDisjoint_of_regions h (cmdSetTimeout_regions c s)
  · exact regionsDisjoint_of_regions h (cmdSetSweepShare_regions c s)
  · exact regionsDisjoint_of_regions h (cmdSetLogMask_regions c s)
  · exact regionsDisjoint_of_regions h (cmdSetAlertMask_regions c s)
  · exact regionsDisjoint_of_regions h rfl
  · exact cmdResetEngine_regionsDisjoint h
  · exact finishCommand_regionsDisjoint h _

/-- A byte written to a register: the command register alone can reach a region. -/
theorem writeRegister_regionsDisjoint (off v : Byte) {s : State} (h : regionsDisjoint s) :
    regionsDisjoint (writeRegister off v s) := by
  unfold writeRegister
  split
  · exact regionsDisjoint_of_regions h rfl
  · split
    · unfold writeCommand
      split
      · exact regionsDisjoint_of_regions h rfl
      · exact runCommand_regionsDisjoint _ (regionsDisjoint_of_regions h rfl)
    · split
      · exact regionsDisjoint_of_regions h rfl
      · split
        · exact regionsDisjoint_of_regions h rfl
        · exact h

theorem takeAddress_ru (v : Byte) (s : State) : (takeAddress v s).ru = s.ru := by
  unfold takeAddress
  split <;> rfl

theorem takeByte_regionsDisjoint (v : Byte) {s : State} (h : regionsDisjoint s) : regionsDisjoint (takeByte v s) := by
  unfold takeByte
  split
  · exact h
  · split
    · exact regionsDisjoint_of_regions h (congrArg RegionUnit.regions (takeAddress_ru v s))
    · exact regionsDisjoint_of_regions h rfl
    · exact writeRegister_regionsDisjoint _ _ (regionsDisjoint_of_regions h rfl)
    all_goals exact h

/-- A row that is a byte on the bus is taken as that byte, whatever the row (log entry 9). -/
theorem exec_of_busByte {c : Instr} {v : Byte} (h : busByte c = some v) (s : State) : exec c s = .next (takeByte v s) := by
  cases c <;> cases h <;> rfl

/-! ## The other rows -/

/-- A fold of operations that leave the Region Unit alone leaves it alone. -/
theorem foldl_ru {α : Type} (f : State → α → State) (hf : ∀ t a, (f t a).ru = t.ru) (l : List α) (t : State) :
    (l.foldl f t).ru = t.ru := by
  induction l generalizing t with
  | nil => rfl
  | cons a as ih => exact (ih _).trans (hf t a)

theorem admitHead_ru (i : SlotId) (s : State) : (admitHead i s).ru = s.ru := by
  unfold admitHead
  rw [foldl_ru]
  · rfl
  · exact fun _ _ => rfl

theorem grantRequests_ru (n : Nat) (s : State) : (grantRequests n s).ru = s.ru := by
  induction n generalizing s with
  | zero => rfl
  | succ n ih =>
    unfold grantRequests
    split
    · rfl
    · split
      · rfl
      · exact ih _

theorem sendResponse_ru (s : State) : (sendResponse s).ru = s.ru := by
  unfold sendResponse
  split <;> rfl

theorem examineAdmission_regionsDisjoint {s : State} (h : regionsDisjoint s) : regionsDisjoint (examineAdmission s) := by
  unfold examineAdmission
  split
  · exact h
  · split
    · exact (moves_refuse _ _ _ _ (moves_withObt _ (by rfl) .refl)).regionsDisjoint h
    · split
      · exact (moves_run .refl).regionsDisjoint (regionsDisjoint_of_regions h (congrArg RegionUnit.regions (admitHead_ru _ _)))
      · exact h

theorem lateResponse_ru (t : DownTagId) (s : State) : (lateResponse t s).ru = s.ru := by
  unfold lateResponse
  split <;> rfl

theorem responseArrives_regionsDisjoint (t : DownTagId) (ok : Bool) (d : List Byte) {s : State} (h : regionsDisjoint s) :
    regionsDisjoint (responseArrives t ok d s) := by
  unfold responseArrives
  split
  · exact h
  · split
    · refine (moves_run .refl).regionsDisjoint ?_
      unfold takeResponse
      split <;> exact (moves_complete _ _ _ .refl).regionsDisjoint (regionsDisjoint_of_regions h rfl)
    · exact regionsDisjoint_of_regions h (congrArg RegionUnit.regions (lateResponse_ru t s))

theorem responseExpired_regionsDisjoint (t : DownTagId) {s : State} (h : regionsDisjoint s) :
    regionsDisjoint (responseExpired t s) := by
  unfold responseExpired
  split
  · exact (moves_run (moves_complete _ _ _ .refl)).regionsDisjoint (regionsDisjoint_of_regions h rfl)
  · exact h

theorem moves_pacingExpired (s : State) : Moves s (pacingExpired s) := by
  unfold pacingExpired
  split
  · exact moves_run (moves_joinSweep (moves_stopPacing .refl))
  · exact .refl

theorem assertFrst_regionsDisjoint {s : State} (h : regionsDisjoint s) : regionsDisjoint (assertFrst s) := by
  have hp : regionsDisjoint (s.withPins { s.pins with frst := true }) := regionsDisjoint_of_regions h rfl
  exact (moves_run (moves_abandonAll .refl)).regionsDisjoint hp

/-- At the power-on values no region is defined. -/
theorem releasePorst_regionsDisjoint (a : BitVec 2) (s : State) : regionsDisjoint (releasePorst a s) := by
  intro r q _ d
  simp [releasePorst, State.region, RegionUnit.powerOn, Region.powerOn, Region.isDefined] at d

/-- Every command keeps the regions disjoint. -/
theorem exec_regionsDisjoint {c : Instr} {s t : State} (h : regionsDisjoint s) (e : exec c s = .next t) : regionsDisjoint t := by
  cases hb : busByte c with
  | some v =>
    rw [exec_of_busByte hb] at e
    cases e
    exact takeByte_regionsDisjoint v h
  | none =>
    cases c with
    | readRequest q t a n => cases e; exact (moves_arrive _ .refl).regionsDisjoint h
    | writeRequest q t a d m => cases e; exact (moves_arrive _ .refl).regionsDisjoint h
    | responseSent => cases e; exact regionsDisjoint_of_regions h (congrArg RegionUnit.regions (sendResponse_ru s))
    | admissionExamination => cases e; exact examineAdmission_regionsDisjoint h
    | bufferWaitExamination => cases e; exact (moves_run (moves_examineBuffers _ .refl)).regionsDisjoint h
    | allocationExamination => cases e; exact (moves_examineAllocation _ .refl).regionsDisjoint h
    | retryTimerExpiry l => cases e; exact (moves_retryExpired l .refl).regionsDisjoint h
    | pacingTimerExpiry => cases e; exact (moves_pacingExpired s).regionsDisjoint h
    | requestGrant => cases e; exact regionsDisjoint_of_regions h (congrArg RegionUnit.regions (grantRequests_ru 16 s))
    | downstreamResponse t ok d => cases e; exact responseArrives_regionsDisjoint t ok d h
    | responseTimerExpiry t => cases e; exact responseExpired_regionsDisjoint t h
    | quarantineTimerExpiry t => cases e; split <;> exact regionsDisjoint_of_regions h rfl
    | logHeadRead m => cases e; split <;> exact regionsDisjoint_of_regions h rfl
    | frstAsserted => exact Host.Outcome.next.inj e ▸ assertFrst_regionsDisjoint h
    | frstReleased => cases e; exact regionsDisjoint_of_regions h rfl
    | porstAsserted => cases e; exact regionsDisjoint_of_regions h rfl
    | porstReleased a =>
      cases e
      split
      · exact releasePorst_regionsDisjoint a s
      · exact h
    | startCondition => cases e; split <;> exact regionsDisjoint_of_regions h rfl
    | stopCondition => cases e; split <;> exact regionsDisjoint_of_regions h rfl
    | _ => cases hb

/-- Settles O58: the empty queue idles, and every command keeps the regions disjoint. -/
theorem everyStepKeepsRegionsDisjoint : Obligations.EveryStepKeepsRegionsDisjoint := by
  intro s t h e
  unfold step at e
  split at e
  · cases e; exact h
  · next c rest _ => exact exec_regionsDisjoint (s := s.withPending rest) (regionsDisjoint_of_regions h rfl) e

end Sys2Proof.Machine
end

section
/-! PROOFS. DEFINE REGION, CLEAR REGION, SET ACCESS, MAP REQUESTER and SET UNMAPPED POLICY (1.6), and the power-on values. -/

namespace Sys2Proof.Machine

/-! ## Fields of one byte -/

/-- A parameter of one byte is that register's value. -/
theorem param_one (s : State) (off : Nat) : s.param off 1 = (s.mp.params.toList.getD off 0).toNat := by
  unfold State.param slice
  rw [List.getD_eq_getElem?_getD, ← List.head?_drop]
  cases List.drop off s.mp.params.toList with
  | nil => rfl
  | cons b bs => simp [leNat]

theorem byteAt_param (s : State) (code : Byte) (off : Nat) :
    (⟨code, s.mp.params⟩ : Command).byteAt off = BitVec.ofNat 8 (s.param off 1) := by
  rw [param_one, BitVec.ofNat_toNat, BitVec.setWidth_eq]
  rfl

theorem checkSetOf_param (s : State) (code : Byte) (off : Nat) :
    checkSetOf ((⟨code, s.mp.params⟩ : Command).byteAt off) =
      ⟨(s.param off 1).testBit 0, (s.param off 1).testBit 1, (s.param off 1).testBit 2⟩ := by
  rw [param_one]
  rfl

/-! ## Code tables -/

theorem readActionCode_code (x : ReadAction) : readActionCode x.code = some x := by cases x <;> rfl
theorem mergeModeCode_code (x : MergeMode) : mergeModeCode x.code = some x := by cases x <;> rfl
theorem tagPolicyCode_code (x : TagPolicy) : tagPolicyCode x.code = some x := by cases x <;> rfl
theorem permissionCode_code (x : Permission) : permissionCode x.code = some x := by cases x <;> rfl

theorem readActionCode_none : ∀ {n : Nat}, 2 < n → readActionCode n = none
  | _ + 3, _ => rfl

theorem mergeModeCode_none : ∀ {n : Nat}, 1 < n → mergeModeCode n = none
  | _ + 2, _ => rfl

theorem tagPolicyCode_none : ∀ {n : Nat}, 1 < n → tagPolicyCode n = none
  | _ + 2, _ => rfl

theorem permissionCode_none : ∀ {n : Nat}, 2 < n → permissionCode n = none
  | _ + 3, _ => rfl

theorem policyCode_none : ∀ {n : Nat}, 1 < n → policyCode n = none
  | _ + 2, _ => rfl

theorem index?_of_le {n k : Nat} (h : n ≤ k) : index? n k = none := dif_neg (Nat.not_lt.mpr h)
theorem index?_val {n : Nat} (i : Fin n) : index? n i.val = some i := dif_pos i.isLt

theorem partitionCode_none {n : Nat} (h : 8 ≤ n) (k : n ≠ 255) : partitionCode n = none := by
  rw [partitionCode, if_neg k, index?_of_le h]
  rfl

theorem partitionCode_val (p : Fin 8) : partitionCode p.val = some (some p) := by
  rw [partitionCode, if_neg (by omega), index?_val]
  rfl

/-! ## A command handed to its owner -/

/-- A command on a region, with a region field that names none. -/
theorem onRegion_none {s : State} (code : Byte) (h : 16 ≤ s.param 0 1) (f : RegionId → State → State) :
    onRegion ⟨code, s.mp.params⟩ f (handOver code s.acked) = s.ended .refusedParam := by
  rw [onRegion, regionField_none s code h]
  rfl

/-- A command on a region, with a region field that names one. -/
theorem onRegion_some {s : State} (code : Byte) {r : RegionId} (h : s.param 0 1 = r.val) (f : RegionId → State → State)
    (t : State) : onRegion ⟨code, s.mp.params⟩ f t = f r t := by
  rw [onRegion, regionField_some s code r h]

/-! ## DEFINE REGION (R11 to R13) -/

theorem isBlockSize_iff (n : Nat) : isBlockSize n = true ↔ n = 512 ∨ n = 1024 ∨ n = 2048 ∨ n = 4096 := by
  simp [isBlockSize, or_assoc]

theorem geometryOk_iff (base size block tagBase epoch : Nat) :
    geometryOk base size block tagBase epoch = true ↔
      base % 4096 = 0 ∧ size ≠ 0 ∧ size % 4096 = 0 ∧ base + size ≤ 2 ^ 40 ∧
        (block = 512 ∨ block = 1024 ∨ block = 2048 ∨ block = 4096) ∧
        tagBase % 64 = 0 ∧ tagBase + tagAreaBytes (size / block) ≤ 2 ^ 40 ∧ epoch ≠ 0 ∧ epoch ≤ 127 := by
  simp only [geometryOk, Bool.and_eq_true, beq_iff_eq, bne_iff_ne, decide_eq_true_eq, isBlockSize_iff, and_assoc]

/-- With its codes listed and its geometry allowed, DEFINE REGION asks for the record of R13. -/
theorem requestedRegion_some {c : Command} {ra : ReadAction} {mm : MergeMode} {tp : TagPolicy} (hra : c.field 23 1 = ra.code)
    (hmm : c.field 24 1 = mm.code) (htp : c.field 25 1 = tp.code)
    (hg : geometryOk (c.field 2 5) (c.field 7 5) (c.field 12 2) (c.field 14 5) (c.field 19 1) = true) (g : Region) :
    requestedRegion c g = some (g.defined c ra mm tp) := by
  rw [requestedRegion, hra, hmm, htp, readActionCode_code, mergeModeCode_code, tagPolicyCode_code]
  exact if_pos hg

/-- A geometry that is not allowed, or a code that is not listed, asks for no record (R11 step 3). -/
theorem requestedRegion_none {c : Command} (g : Region)
    (h : geometryOk (c.field 2 5) (c.field 7 5) (c.field 12 2) (c.field 14 5) (c.field 19 1) = false ∨
      2 < c.field 23 1 ∨ 1 < c.field 24 1 ∨ 1 < c.field 25 1) : requestedRegion c g = none := by
  unfold requestedRegion
  split
  · next hra hmm htp =>
    rcases h with h | h | h | h
    · rw [h]; rfl
    · rw [readActionCode_none h] at hra; cases hra
    · rw [mergeModeCode_none h] at hmm; cases hmm
    · rw [tagPolicyCode_none h] at htp; cases htp
  · rfl

theorem Region.conflicts_iff (g h : Region) :
    g.conflicts h = true ↔ h.state ≠ .empty ∧
      (overlaps g.base g.size h.base h.size = true ∨ overlaps g.base g.size h.tagBase h.tagBytes = true ∨
        overlaps g.tagBase g.tagBytes h.base h.size = true ∨ overlaps g.tagBase g.tagBytes h.tagBase h.tagBytes = true ∨
        g.label = h.label) := by
  simp only [Region.conflicts, Bool.and_eq_true, Region.isDefined_iff, Bool.or_eq_true, beq_iff_eq, or_assoc]

theorem defineConflict_iff (s : State) (r : RegionId) (g : Region) :
    defineConflict s r g = true ↔ overlaps g.base g.size g.tagBase g.tagBytes = true ∨
      ∃ q, q ≠ r ∧ g.conflicts (s.region q) = true := by
  simp only [defineConflict, Bool.or_eq_true, List.any_eq_true, allRegions, List.mem_finRange, true_and, Bool.and_eq_true,
    bne_iff_ne]

section
variable {c : Command} {r : RegionId} {s : State}

theorem defineRegion_notEmpty (h : (s.region r).state ≠ .empty) : defineRegion c r s = finishCommand .refusedState s :=
  if_pos h

theorem defineRegion_badParam (h : (s.region r).state = .empty) (k : requestedRegion c (s.region r) = none) :
    defineRegion c r s = finishCommand .refusedParam s := by
  rw [defineRegion, if_neg (Decidable.not_not.mpr h), k]

theorem defineRegion_conflict {g : Region} (h : (s.region r).state = .empty) (k : requestedRegion c (s.region r) = some g)
    (m : defineConflict s r g = true) : defineRegion c r s = finishCommand .refusedConflict s := by
  rw [defineRegion, if_neg (Decidable.not_not.mpr h), k]
  exact if_pos m

theorem defineRegion_done {g : Region} (h : (s.region r).state = .empty) (k : requestedRegion c (s.region r) = some g)
    (m : defineConflict s r g = false) : defineRegion c r s = finishCommand .doneOk (s.updRegion r fun _ => g) := by
  rw [defineRegion, if_neg (Decidable.not_not.mpr h), k]
  exact if_neg (Bool.eq_false_iff.mp m)
end

/-- Settles O32: the checks of R11 in their order, then the conflicts of R12, then the record of R13. -/
theorem defineRegionChecksAndDefines : Obligations.DefineRegionChecksAndDefines := by
  intro s hs
  have handed (r : RegionId) (hr : s.param 0 1 = r.val) :
      exec .defineRegion s = .next (defineRegion ⟨0x01, s.mp.params⟩ r (handOver 0x01 s.acked)) := by
    rw [exec_defineRegion s hs, cmdDefineRegion, onRegion_some 0x01 hr]
  refine ⟨fun h16 => ?_, fun r hr => ⟨fun hne => ?_, fun he => ⟨fun bad => ?_, ?_⟩⟩⟩
  · rw [exec_defineRegion s hs, cmdDefineRegion, onRegion_none 0x01 h16]
  · exact (handed r hr).trans (congrArg _ (defineRegion_notEmpty hne))
  · have refused : requestedRegion ⟨0x01, s.mp.params⟩ (s.region r) = none := by
      refine requestedRegion_none _ ?_
      rw [Bool.eq_false_iff, ne_eq, geometryOk_iff]
      simp only [field_param]
      omega
    exact (handed r hr).trans (congrArg _ (defineRegion_badParam he refused))
  · intro ra mm tp g hb hs0 hsz hend hblk htb htend he1 he127 hra hmm htp hg
    have asked : requestedRegion ⟨0x01, s.mp.params⟩ (s.region r) = some g := by
      have ok := (geometryOk_iff ..).mpr ⟨hb, hs0, hsz, hend, hblk, htb, htend, Nat.ne_of_gt he1, he127⟩
      rw [requestedRegion_some (c := ⟨0x01, s.mp.params⟩) hra hmm htp ok, hg, Region.defined, byteAt_param, checkSetOf_param]
      rfl
    constructor
    · intro conflict
      refine (handed r hr).trans (congrArg _ (defineRegion_conflict he asked ((defineConflict_iff ..).mpr ?_)))
      refine conflict.imp_right ?_
      rintro ⟨q, hq, hd, hc⟩
      exact ⟨q, hq, (Region.conflicts_iff ..).mpr ⟨hd, hc⟩⟩
    · intro apart clear
      refine (handed r hr).trans (congrArg _ (defineRegion_done he asked ?_))
      rw [Bool.eq_false_iff, ne_eq, defineConflict_iff]
      rintro (h | ⟨q, hq, hc⟩)
      · exact absurd h (Bool.eq_false_iff.mp apart)
      · obtain ⟨hd, hc⟩ := (Region.conflicts_iff ..).mp hc
        obtain ⟨n1, n2, n3, n4, n5⟩ := clear q hq hd
        simp [n1, n2, n3, n4, n5] at hc

/-! ## CLEAR REGION (R14) -/

theorem queuedFor_iff (s : State) (r : RegionId) :
    queuedFor s r = true ↔ ∃ i ∈ s.obt.admission, (s.slot i).region = some r := by
  simp [queuedFor]

/-- Settles O33: the refusals of R14 in their order, then the cleared record. -/
theorem clearRegionEmptiesTheRecord : Obligations.ClearRegionEmptiesTheRecord := by
  intro s hs
  have handed (r : RegionId) (hr : s.param 0 1 = r.val) :
      exec .clearRegion s = .next (clearRegion r (handOver 0x02 s.acked)) := by
    rw [exec_clearRegion s hs, cmdClearRegion, onRegion_some 0x02 hr]
  refine ⟨fun h16 => ?_, fun r hr => ⟨fun hne => ?_, fun hc => ⟨fun queued => ?_, fun clear => ?_⟩⟩⟩
  · rw [exec_clearRegion s hs, cmdClearRegion, onRegion_none 0x02 h16]
  · exact (handed r hr).trans (congrArg _ (if_pos hne))
  · have q : queuedFor (handOver 0x02 s.acked) r = true := (queuedFor_iff ..).mpr queued
    exact (handed r hr).trans (congrArg _ ((if_neg (Decidable.not_not.mpr hc)).trans (if_pos q)))
  · have q : ¬ queuedFor (handOver 0x02 s.acked) r = true := by
      rw [queuedFor_iff]
      rintro ⟨i, hi, e⟩
      exact clear i hi e
    exact (handed r hr).trans (congrArg _ ((if_neg (Decidable.not_not.mpr hc)).trans (if_neg q)))

/-! ## SET ACCESS (R15) -/

/-- Consecutive one-byte fields that are all listed codes. -/
theorem codes_some {α : Type} {c : Command} {read : Nat → Option α} {off n : Nat} {f : Fin n → α}
    (h : ∀ k : Fin n, read (c.field (off + k.val) 1) = some (f k)) : c.codes read off n = some (List.ofFn f) := by
  have listed : (List.range n).map (fun k => read (c.field (off + k) 1)) = (List.ofFn f).map some := by
    refine List.ext_getElem (by simp only [List.length_map, List.length_range, List.length_ofFn]) fun i hi _ => ?_
    rw [List.getElem_map, List.getElem_map, List.getElem_range, List.getElem_ofFn]
    exact h ⟨i, _⟩
  rw [Command.codes, listed, List.mapM_map]
  exact (List.mapM_pure (f := id)).trans (congrArg some (List.map_id _))

/-- A list of codes with one that is not listed. -/
theorem mapM_id_none {α : Type} {l : List (Option α)} (h : none ∈ l) : l.mapM id = none := by
  induction l with
  | nil => cases h
  | cons x l ih =>
    rw [List.mapM_cons]
    cases x with
    | none => rfl
    | some a => rw [ih ((List.mem_cons.mp h).resolve_left nofun)]; rfl

/-- Consecutive one-byte fields, one of them not a listed code. -/
theorem codes_none {α : Type} {c : Command} {read : Nat → Option α} {off n k : Nat} (hk : k < n)
    (h : read (c.field (off + k) 1) = none) : c.codes read off n = none :=
  mapM_id_none (List.mem_map.mpr ⟨k, List.mem_range.mpr hk, h⟩)

theorem permissionTable_ofFn (ps : Vector Permission 8) : permissionTable (List.ofFn (vget ps)) = ps := by
  ext k hk
  rw [permissionTable, Vector.getElem_ofFn, List.getD_eq_getElem?_getD, List.getElem?_ofFn, dif_pos hk]
  rfl

theorem cmdSetAccess_badParam {c : Command} (s : State) (h : c.regionField = none ∨ c.codes permissionCode 1 8 = none) :
    cmdSetAccess c s = finishCommand .refusedParam s := by
  unfold cmdSetAccess
  split
  · next r ps hr hp => rcases h with h | h <;> simp [h] at hr hp
  · rfl

theorem cmdSetAccess_listed {c : Command} {r : RegionId} {ps : List Permission} (s : State) (hr : c.regionField = some r)
    (hp : c.codes permissionCode 1 8 = some ps) : cmdSetAccess c s =
      if (s.region r).state = .empty then finishCommand .refusedState s
      else finishCommand .doneOk (s.updRegion r fun g => { g with permissions := permissionTable ps }) := by
  rw [cmdSetAccess, hr, hp]

/-- Settles O34: a bad index or code, then an EMPTY region, is refused; otherwise the permissions alone are replaced. -/
theorem setAccessReplacesThePermissions : Obligations.SetAccessReplacesThePermissions := by
  intro s hs
  rw [exec_setAccess s hs]
  refine ⟨fun bad => congrArg _ (cmdSetAccess_badParam _ (bad.imp (regionField_none s 0x04) ?_)), fun r ps hr hp => ?_⟩
  · rintro ⟨k, hk⟩
    exact codes_none k.isLt (permissionCode_none hk)
  · have codes : (⟨0x04, s.mp.params⟩ : Command).codes permissionCode 1 8 = some (List.ofFn (vget ps)) :=
      codes_some fun k => by rw [field_param, hp k, permissionCode_code]
    rw [cmdSetAccess_listed _ (regionField_some s 0x04 r hr) codes, permissionTable_ofFn]
    exact ⟨fun he => congrArg _ (if_pos he), fun hne => congrArg _ (if_neg hne)⟩

/-! ## MAP REQUESTER and SET UNMAPPED POLICY (R16, R17) -/

theorem cmdMapRequester_badParam {c : Command} (s : State)
    (h : index? 64 (c.field 0 1) = none ∨ partitionCode (c.field 1 1) = none) :
    cmdMapRequester c s = finishCommand .refusedParam s := by
  unfold cmdMapRequester
  split
  · next q p hq hp => rcases h with h | h <;> simp [h] at hq hp
  · rfl

theorem cmdMapRequester_listed {c : Command} {q : Fin 64} {p : Option (Fin 8)} (s : State) (hq : c.field 0 1 = q.val)
    (hp : partitionCode (c.field 1 1) = some p) :
    cmdMapRequester c s = finishCommand .doneOk (s.withRu { s.ru with requesterMap := vset s.ru.requesterMap q p }) := by
  rw [cmdMapRequester, hq, index?_val, hp]

/-- Settles O35: one entry of the Requester Map, or the unmapped policy, is set, and a value out of range is refused. -/
theorem mapRequesterAndUnmappedPolicy : Obligations.MapRequesterAndUnmappedPolicy := by
  refine ⟨fun s hs => ?_, fun s hs => ?_⟩
  · rw [exec_mapRequester s hs]
    refine ⟨fun bad => congrArg _ (cmdMapRequester_badParam _ (bad.imp index?_of_le fun h => partitionCode_none h.1 h.2)),
      fun q hq => ⟨fun p hp => ?_, fun hp => ?_⟩⟩
    · exact congrArg _ (cmdMapRequester_listed _ hq ((congrArg _ hp).trans (partitionCode_val p)))
    · exact congrArg _ (cmdMapRequester_listed _ hq ((congrArg _ hp).trans (if_pos rfl)))
  · rw [exec_setUnmappedPolicy s hs, cmdSetUnmappedPolicy, field_param]
    refine ⟨fun h => ?_, fun h => ?_, fun h => ?_⟩
    · rw [h]; rfl
    · rw [h]; rfl
    · rw [policyCode_none h]; rfl

/-! ## The power-on values -/

theorem reset_region (r : RegionId) : State.reset.region r = .powerOn := vget_replicate _ r
theorem reset_slot (i : SlotId) : State.reset.slot i = .powerOn := vget_replicate _ i
theorem reset_line (l : LineId) : State.reset.line l = .powerOn := vget_replicate _ l
theorem reset_downTag (t : DownTagId) : State.reset.downTag t = .powerOn := vget_replicate _ t

/-- Settles O2: the uniform tables hold the power-on record everywhere, and the other fields are the listed constants. -/
theorem resetLeavesPowerOnValues : Obligations.ResetLeavesPowerOnValues := by
  refine ⟨fun r => ?_, ⟨fun q => vget_replicate _ q, rfl⟩, ⟨fun i => reset_slot i, rfl⟩,
    ⟨rfl, rfl, rfl, fun b => ?_, rfl⟩, ⟨fun l => ?_, rfl, rfl, rfl⟩, ⟨rfl, rfl, rfl, rfl⟩,
    ⟨fun t => ?_, rfl, rfl, rfl, rfl, rfl, rfl⟩,
    ⟨rfl, rfl, rfl, rfl, rfl, fun k => vget_replicate _ k, rfl⟩,
    ⟨rfl, rfl, rfl, fun k => vget_replicate _ k, fun k => vget_replicate _ k, rfl⟩⟩
  · rw [reset_region]
    exact ⟨rfl, rfl, rfl, rfl, rfl, rfl, rfl, rfl, rfl, rfl, rfl, rfl, rfl, fun k => vget_replicate _ k, rfl, rfl, rfl, rfl,
      rfl, rfl, rfl, rfl⟩
  · exact congrArg Buffer.owner (vget_replicate _ b)
  · rw [reset_line]
    exact ⟨rfl, rfl, rfl, rfl, rfl, rfl, rfl, rfl, rfl, rfl, rfl⟩
  · rw [reset_downTag]
    exact ⟨rfl, rfl, rfl, rfl⟩

end Sys2Proof.Machine
end

section
/-! PROOFS. QUERY REGION: bytes and numbers, the result registers after a write, and the snapshot field by field (R18, R188). -/

namespace Sys2Proof.Machine

/-! ## Bytes and numbers -/

@[simp] theorem leBytes_length (n v : Nat) : (leBytes n v).length = n := by
  induction n generalizing v with
  | zero => rfl
  | succ n ih => simp [leBytes, ih]

/-- The low bytes of a number that fits them spell it. -/
theorem leNat_leBytes {n v : Nat} (h : v < 256 ^ n) : leNat (leBytes n v) = v := by
  induction n generalizing v with
  | zero => simp only [Nat.pow_zero] at h; simp only [leBytes, leNat]; omega
  | succ n ih =>
    rw [leBytes, leNat, ih (Nat.div_lt_of_lt_mul (by rwa [← Nat.pow_succ'])), BitVec.toNat_ofNat]
    exact Nat.mod_add_div v 256

theorem bit_le_one (b : Bool) : bit b ≤ 1 := by cases b <;> decide

/-! ## Slices -/

/-- A slice that lies within the `k`-th of several lists laid end to end is a slice of that list. -/
theorem slice_flatten {fs : List (List Byte)} {k off i n : Nat} {f : List Byte} (hk : fs[k]? = some f)
    (ho : ((fs.take k).map List.length).sum = off) (hn : i + n ≤ f.length) : slice (off + i) n fs.flatten = slice i n f := by
  induction fs generalizing k off with
  | nil => cases hk
  | cons a fs ih =>
    rw [List.flatten_cons, slice, slice, List.drop_append]
    cases k with
    | zero =>
      obtain rfl : a = f := Option.some.inj hk
      obtain rfl : 0 = off := ho
      rw [Nat.zero_add, List.take_append_of_le_length (by rw [List.length_drop]; omega)]
    | succ k =>
      obtain rfl : a.length + ((fs.take k).map List.length).sum = off := ho
      rw [List.drop_eq_nil_of_le (by omega), List.nil_append, Nat.add_assoc, Nat.add_sub_cancel_left]
      exact ih hk rfl

theorem slice_leBytes (n v : Nat) : slice 0 n (leBytes n v) = leBytes n v := by
  rw [slice, List.drop_zero, List.take_of_length_le (Nat.le_of_eq (leBytes_length n v))]

/-! ## Registers written -/

theorem vget_writeAt_zero {n : Nat} (bs : List Byte) (v : Vector Byte n) (k : Fin n) :
    vget (writeAt 0 bs v) k = (bs[k.val]?).getD (vget v k) := by
  simp [writeAt, vget]

/-- The bytes past those written are as they were. -/
theorem vget_writeAt_past {n : Nat} {bs : List Byte} (v : Vector Byte n) {k : Fin n} (h : bs.length ≤ k.val) :
    vget (writeAt 0 bs v) k = vget v k := by
  rw [vget_writeAt_zero, List.getElem?_eq_none h, Option.getD_none]

/-- Registers written from offset 0: the bytes written, and behind them what stood there. -/
theorem writeAt_zero_toList {n : Nat} {bs : List Byte} (v : Vector Byte n) (h : bs.length ≤ n) :
    (writeAt 0 bs v).toList = bs ++ v.toList.drop bs.length := by
  refine List.ext_getElem (by simp; omega) fun i hi _ => ?_
  have read := vget_writeAt_zero bs v ⟨i, by simpa using hi⟩
  by_cases hb : i < bs.length
  · rw [List.getElem?_eq_getElem hb] at read
    simpa [vget, hb] using read
  · rw [List.getElem?_eq_none (by simpa using hb)] at read
    simpa [vget, List.getElem_append_right (Nat.le_of_not_lt hb), Nat.add_sub_of_le (Nat.le_of_not_lt hb)] using read

/-! ## The snapshot of a region (R188) -/

/-- The fields of a region's snapshot in the order of R188, the eight permissions as one. -/
def Region.snapshotFields (g : Region) : List (List Byte) :=
  [leBytes 1 g.state.code, [g.label], leBytes 5 g.base, leBytes 5 g.size, leBytes 2 g.blockSize, leBytes 4 g.blockCount,
    leBytes 5 g.tagBase, leBytes 5 g.tagBytes, leBytes 1 g.epoch.toNat, leBytes 2 g.seed.toNat, leBytes 1 g.checkSet.code,
    leBytes 1 g.readAction.code, leBytes 1 g.mergeMode.code, leBytes 1 g.tagPolicy.code,
    g.permissions.toList.flatMap fun p => leBytes 1 p.code, leBytes 4 g.frontier, leBytes 1 g.flagByte, leBytes 2 g.errorCount,
    leBytes 2 g.warnThreshold, leBytes 2 g.fenceThreshold]

theorem Region.snapshot_eq_flatten (g : Region) : g.snapshot = g.snapshotFields.flatten := by
  unfold Region.snapshot Region.snapshotFields
  simp only [List.flatten_cons, List.flatten_nil, List.append_assoc, List.append_nil]

/-- Each of the eight permissions is one byte. -/
theorem permissionBytes_lengths (ps : Vector Permission 8) :
    (ps.toList.map fun p => leBytes 1 p.code).map List.length = List.replicate 8 1 := by
  rw [List.map_map, List.eq_replicate_iff, List.length_map, Vector.length_toList]
  refine ⟨rfl, fun n hn => ?_⟩
  obtain ⟨p, -, rfl⟩ := List.mem_map.mp hn
  exact leBytes_length 1 p.code

theorem permissionBytes_length (ps : Vector Permission 8) : (ps.toList.flatMap fun p => leBytes 1 p.code).length = 8 := by
  rw [List.flatMap_def, List.length_flatten, permissionBytes_lengths]
  rfl

/-- The lengths of the fields, and so their offsets (R188). -/
def snapshotLengths : List Nat := [1, 1, 5, 5, 2, 4, 5, 5, 1, 2, 1, 1, 1, 1, 8, 4, 1, 2, 2, 2]

theorem Region.snapshotFields_lengths (g : Region) :
    g.snapshotFields.map List.length = snapshotLengths := by
  simp only [Region.snapshotFields, List.map_cons, List.map_nil, leBytes_length, permissionBytes_length, List.length_singleton,
    snapshotLengths]

theorem Region.snapshot_length (g : Region) : g.snapshot.length = 54 := by
  rw [g.snapshot_eq_flatten, List.length_flatten, g.snapshotFields_lengths]
  rfl

/-- Once the snapshot is written, a slice within its `k`-th field is read back. -/
theorem slice_snapshot (g : Region) (v : Vector Byte 128) {k off i n : Nat} {f : List Byte} (hk : g.snapshotFields[k]? = some f)
    (ho : (snapshotLengths.take k).sum = off) (hn : i + n ≤ f.length) :
    slice (off + i) n (writeAt 0 g.snapshot v).toList = slice i n f := by
  obtain ⟨hlt, -⟩ := List.getElem?_eq_some_iff.mp hk
  have laid : (writeAt 0 g.snapshot v).toList = (g.snapshotFields ++ [v.toList.drop g.snapshot.length]).flatten := by
    rw [writeAt_zero_toList v (by rw [g.snapshot_length]; decide), List.flatten_append, ← g.snapshot_eq_flatten,
      List.flatten_singleton]
  rw [laid]
  refine slice_flatten ((List.getElem?_append_left hlt).trans hk) ?_ hn
  rw [List.take_append_of_le_length (Nat.le_of_lt hlt), List.map_take, g.snapshotFields_lengths, ho]

/-- A numeric field of the snapshot reads back as its number. -/
theorem leNat_snapshot (g : Region) (v : Vector Byte 128) (k : Nat) {off n x : Nat} (hk : g.snapshotFields[k]? = some (leBytes n x))
    (ho : (snapshotLengths.take k).sum = off) (hx : x < 256 ^ n) : leNat (slice off n (writeAt 0 g.snapshot v).toList) = x := by
  have read := slice_snapshot g v (i := 0) (n := n) hk ho (by simp)
  rw [Nat.add_zero, slice_leBytes] at read
  rw [read, leNat_leBytes hx]

/-! Every code of the layout fits its byte. -/

theorem RegionState.code_lt (x : RegionState) : x.code < 256 := by cases x <;> decide
theorem CheckSet.code_lt (x : CheckSet) : x.code < 256 := by
  have hl := bit_le_one x.locator
  have hb := bit_le_one x.label
  have hg := bit_le_one x.guard
  unfold CheckSet.code
  omega
theorem ReadAction.code_lt (x : ReadAction) : x.code < 256 := by cases x <;> decide
theorem MergeMode.code_lt (x : MergeMode) : x.code < 256 := by cases x <;> decide
theorem TagPolicy.code_lt (x : TagPolicy) : x.code < 256 := by cases x <;> decide
theorem Permission.code_lt (x : Permission) : x.code < 256 := by cases x <;> decide
theorem Region.flagByte_lt (g : Region) : g.flagByte < 256 := by
  have hf := bit_le_one g.fenced
  have he := bit_le_one g.fenceEnable
  have hw := bit_le_one g.warnReported
  have hl := bit_le_one g.healthLocked
  unfold Region.flagByte
  omega

/-- The byte of a partition among the permissions. -/
theorem slice_permissionBytes (ps : Vector Permission 8) (k : Fin 8) :
    slice k.val 1 (ps.toList.flatMap fun p => leBytes 1 p.code) = leBytes 1 (vget ps k).code := by
  have hk : (ps.toList.map fun p => leBytes 1 p.code)[k.val]? = some (leBytes 1 (vget ps k).code) := by simp [vget]
  have ho : (((ps.toList.map fun p => leBytes 1 p.code).take k.val).map List.length).sum = k.val := by
    rw [List.map_take, permissionBytes_lengths, List.take_replicate, List.sum_replicate_nat, Nat.mul_one,
      Nat.min_eq_left (Nat.le_of_lt k.isLt)]
  have read := slice_flatten (i := 0) (n := 1) hk ho (by simp)
  rwa [Nat.add_zero, slice_leBytes] at read

/-- The permission of a partition reads back as its code. -/
theorem leNat_snapshot_permission (g : Region) (v : Vector Byte 128) (k : Fin 8) :
    leNat (slice (35 + k.val) 1 (writeAt 0 g.snapshot v).toList) = (vget g.permissions k).code := by
  have read := slice_snapshot g v (k := 14) (off := 35) (i := k.val) (n := 1) rfl rfl (by rw [permissionBytes_length]; omega)
  rw [read, slice_permissionBytes, leNat_leBytes (Permission.code_lt _)]

/-- Settles O36: the record's fields read back from the result registers at the offsets of R188. -/
theorem queryRegionCopiesTheRecord : Obligations.QueryRegionCopiesTheRecord := by
  intro s hs
  rw [exec_queryRegion s hs, cmdQueryRegion]
  refine ⟨fun h16 => by rw [onRegion_none 0x03 h16],
    fun r hr hbase hsize hblock hcount htag htagBytes hfront herr hwarn hfence => ?_⟩
  generalize hg : s.region r = g at *
  have name : slice 1 1 (writeAt 0 g.snapshot s.mp.results).toList = [g.label] :=
    slice_snapshot g s.mp.results (k := 1) (i := 0) rfl rfl (Nat.le_refl 1)
  refine ⟨writeAt 0 g.snapshot s.mp.results, ?_, ?_, name, leNat_snapshot g _ 2 rfl rfl hbase, leNat_snapshot g _ 3 rfl rfl hsize,
    leNat_snapshot g _ 4 rfl rfl hblock, leNat_snapshot g _ 5 rfl rfl hcount, leNat_snapshot g _ 6 rfl rfl htag,
    leNat_snapshot g _ 7 rfl rfl htagBytes, leNat_snapshot g _ 8 rfl rfl (by omega), leNat_snapshot g _ 9 rfl rfl g.seed.isLt,
    leNat_snapshot g _ 10 rfl rfl g.checkSet.code_lt, leNat_snapshot g _ 11 rfl rfl g.readAction.code_lt,
    leNat_snapshot g _ 12 rfl rfl g.mergeMode.code_lt, leNat_snapshot g _ 13 rfl rfl g.tagPolicy.code_lt,
    leNat_snapshot_permission g _, leNat_snapshot g _ 15 rfl rfl hfront, leNat_snapshot g _ 16 rfl rfl g.flagByte_lt,
    leNat_snapshot g _ 17 rfl rfl herr, leNat_snapshot g _ 18 rfl rfl hwarn, leNat_snapshot g _ 19 rfl rfl hfence,
    fun k hk => vget_writeAt_past _ (by rw [g.snapshot_length]; exact hk)⟩
  · rw [onRegion_some 0x03 hr, handOver_region, acked_region, hg]
    rfl
  · exact (leNat_snapshot g _ 0 rfl rfl g.state.code_lt).trans (by cases g.state <;> rfl)

end Sys2Proof.Machine
end

section
/-! PROOFS. Block tags and the Check Unit: the guard CRC's affinity (R22), bytes placed in a block, the delta guard and Law 6 (R32,
R33), and the verdict order (R26 to R29). -/

namespace Sys2Proof.Machine

/-! ## The guard CRC is linear in its register and its bytes (R21, R22) -/

/-- Two blocks of bytes combined by XOR, byte by byte. -/
def xorBytes (a b : List Byte) : List Byte := List.zipWith (fun x y => x ^^^ y) a b

theorem xorBytes_cons (x y : Byte) (a b : List Byte) : xorBytes (x :: a) (y :: b) = (x ^^^ y) :: xorBytes a b := rfl

theorem xorBytes_append {a b : List Byte} (h : a.length = b.length) (c d : List Byte) :
    xorBytes (a ++ c) (b ++ d) = xorBytes a b ++ xorBytes c d := List.zipWith_append h

theorem xorBytes_length {a b : List Byte} (h : a.length = b.length) : (xorBytes a b).length = a.length := by
  rw [xorBytes, List.length_zipWith, h, Nat.min_self]

@[simp] theorem xorBytes_self (a : List Byte) : xorBytes a a = List.replicate a.length 0 := by
  induction a with
  | nil => rfl
  | cons x a ih => exact List.cons_eq_cons.mpr ⟨BitVec.xor_self, ih⟩

@[simp] theorem xorBytes_zeros (a : List Byte) : xorBytes a (List.replicate a.length 0) = a := by
  induction a with
  | nil => rfl
  | cons x a ih => exact List.cons_eq_cons.mpr ⟨BitVec.xor_zero, ih⟩

/-- The feedback enters by XOR: the shifted register, and the polynomial if the outgoing and the fed bit differ. -/
theorem crcBit_eq (r : BitVec 32) (b : Bool) :
    crcBit r b = (r >>> 1) ^^^ (if r.getLsbD 0 ^^ b then 0x82F63B78#32 else 0) := by
  unfold crcBit
  cases r.getLsbD 0 <;> cases b <;> simp

theorem crcBit_xor (r s : BitVec 32) (b c : Bool) : crcBit (r ^^^ s) (b ^^ c) = crcBit r b ^^^ crcBit s c := by
  have feedback (p q : Bool) (poly : BitVec 32) :
      (if p ^^ q then poly else 0) = (if p then poly else 0) ^^^ (if q then poly else 0) := by cases p <;> cases q <;> simp
  have outgoing : ((r ^^^ s).getLsbD 0 ^^ (b ^^ c)) = ((r.getLsbD 0 ^^ b) ^^ (s.getLsbD 0 ^^ c)) := by
    rw [BitVec.getLsbD_xor, Bool.xor_assoc, Bool.xor_assoc, Bool.xor_left_comm (s.getLsbD 0)]
  rw [crcBit_eq, crcBit_eq, crcBit_eq, outgoing, feedback, BitVec.ushiftRight_xor_distrib]
  ac_rfl

theorem crcByte_xor (r s : BitVec 32) (x y : Byte) : crcByte (r ^^^ s) (x ^^^ y) = crcByte r x ^^^ crcByte s y := by
  unfold crcByte
  induction List.range 8 generalizing r s with
  | nil => rfl
  | cons k ks ih => rw [List.foldl_cons, List.foldl_cons, List.foldl_cons, BitVec.getLsbD_xor, crcBit_xor, ih]

/-- Two equally long blocks fed to two registers, combined, are the combined block fed to the combined register. -/
theorem foldl_crcByte_xor {a b : List Byte} (h : a.length = b.length) (r s : BitVec 32) :
    (xorBytes a b).foldl crcByte (r ^^^ s) = a.foldl crcByte r ^^^ b.foldl crcByte s := by
  induction a generalizing b r s with
  | nil =>
    obtain rfl := List.eq_nil_of_length_eq_zero h.symm
    rfl
  | cons x a ih =>
    obtain ⟨y, b, rfl⟩ := List.exists_cons_of_length_eq_add_one h.symm
    rw [xorBytes_cons, List.foldl_cons, List.foldl_cons, List.foldl_cons, crcByte_xor, ih (Nat.succ.inj h)]

/-- Over one length the presets cancel: what is left is the change of the bytes, fed to the register at zero. -/
theorem crc_xor_crc {a b : List Byte} (h : a.length = b.length) : crc a ^^^ crc b = (xorBytes a b).foldl crcByte 0 := by
  have preset : (0 : BitVec 32) = 0xFFFFFFFF#32 ^^^ 0xFFFFFFFF#32 := rfl
  rw [preset, foldl_crcByte_xor h, crc, crc, BitVec.xor_assoc, BitVec.xor_comm (0xFFFFFFFF#32), BitVec.xor_assoc, BitVec.xor_self,
    BitVec.xor_zero]

/-- The CRCs of two pairs of blocks differ alike where the blocks differ alike. -/
theorem crc_xor_crc_congr {a b c d : List Byte} (hab : a.length = b.length) (hcd : c.length = d.length)
    (h : xorBytes a b = xorBytes c d) : crc a ^^^ crc b = crc c ^^^ crc d := by
  rw [crc_xor_crc hab, crc_xor_crc hcd, h]

/-- Settles O3: the check value by evaluation, and affinity because both sides are the CRCs of pairs that differ alike. -/
theorem crcCheckValueAndAffinity : Obligations.CrcCheckValueAndAffinity := by
  refine ⟨by decide +kernel, rfl, fun a b h => ?_⟩
  have hx : (xorBytes a b).length = a.length := xorBytes_length h
  refine crc_xor_crc_congr (c := xorBytes a b) h (by rw [List.length_replicate, hx]) ?_
  rw [← hx, xorBytes_zeros]

/-! ## Bytes placed in a block -/

/-- One byte placed inside a block replaces the byte there. -/
theorem overlay_singleton {off : Nat} {a : List Byte} (h : off < a.length) (x : Byte) : overlay off [x] a = a.set off x := by
  rw [List.set_eq_take_append_cons_drop, if_pos h, overlay, List.append_assoc]
  rfl

theorem overlay_length {off : Nat} {a : List Byte} (h : off < a.length) (x : Byte) : (overlay off [x] a).length = a.length := by
  rw [overlay_singleton h, List.length_set]

/-- A byte's own value placed where it stands changes nothing. -/
theorem overlay_getD {off : Nat} {a : List Byte} (h : off < a.length) : overlay off [a.getD off 0] a = a := by
  rw [overlay_singleton h, List.getD_eq_getElem?_getD, List.getElem?_eq_getElem h, Option.getD_some, List.set_getElem_self]

theorem xorBytes_overlay {a b : List Byte} (h : a.length = b.length) (off : Nat) (x y : Byte) :
    xorBytes (overlay off [x] a) (overlay off [y] b) = overlay off [x ^^^ y] (xorBytes a b) := by
  simp only [overlay]
  rw [xorBytes_append (by simp [h]), xorBytes_append (by simp [h])]
  simp [xorBytes, List.take_zipWith, List.drop_zipWith]

theorem placeBytes_cons (p : Nat × Byte) (new : List (Nat × Byte)) (a : List Byte) :
    placeBytes (p :: new) a = placeBytes new (overlay p.1 [p.2] a) := rfl

theorem placeBytes_append_singleton (new : List (Nat × Byte)) (p : Nat × Byte) (a : List Byte) :
    placeBytes (new ++ [p]) a = overlay p.1 [p.2] (placeBytes new a) := List.foldl_append

theorem sparseBlock_eq_placeBytes (B : Nat) (bytes : List (Nat × Byte)) :
    sparseBlock B bytes = placeBytes bytes (List.replicate B 0) := rfl

theorem placeBytes_length {new : List (Nat × Byte)} {a : List Byte} (h : ∀ x ∈ new, x.1 < a.length) :
    (placeBytes new a).length = a.length := by
  induction new generalizing a with
  | nil => rfl
  | cons p new ih =>
    obtain ⟨hp, hnew⟩ := List.forall_mem_cons.mp h
    rw [placeBytes_cons, ih (by rwa [overlay_length hp]), overlay_length hp]

theorem sparseBlock_length {B : Nat} {bytes : List (Nat × Byte)} (h : ∀ x ∈ bytes, x.1 < B) :
    (sparseBlock B bytes).length = B := by
  have zeros : (List.replicate B (0 : Byte)).length = B := List.length_replicate
  rw [sparseBlock_eq_placeBytes, placeBytes_length (by rwa [zeros]), zeros]

/-- A byte at none of the offsets stays. -/
theorem placeBytes_getD {new : List (Nat × Byte)} {a : List Byte} {k : Nat} (h : ∀ x ∈ new, x.1 < a.length)
    (hk : k ∉ new.map (·.1)) : (placeBytes new a).getD k 0 = a.getD k 0 := by
  induction new generalizing a with
  | nil => rfl
  | cons p new ih =>
    obtain ⟨hp, hnew⟩ := List.forall_mem_cons.mp h
    rw [List.map_cons, List.mem_cons, not_or] at hk
    obtain ⟨hkp, hrest⟩ := hk
    rw [placeBytes_cons, ih (by rwa [overlay_length hp]) hrest, overlay_singleton hp, List.getD_eq_getElem?_getD,
      List.getElem?_set_ne (Ne.symm hkp), List.getD_eq_getElem?_getD]

/-- Bytes that a block already holds, placed in it, change nothing. -/
theorem placeBytes_same {new : List (Nat × Byte)} {a : List Byte} (h : ∀ x ∈ new, x.1 < a.length)
    (same : ∀ x ∈ new, a.getD x.1 0 = x.2) : placeBytes new a = a := by
  induction new with
  | nil => rfl
  | cons p new ih =>
    obtain ⟨hp, hnew⟩ := List.forall_mem_cons.mp h
    obtain ⟨hsame, hrest⟩ := List.forall_mem_cons.mp same
    rw [placeBytes_cons, ← hsame, overlay_getD hp, ih hnew hrest]

/-- Two blocks written at the same offsets, combined, are the combined block with the combined bytes written there. -/
theorem xorBytes_placeBytes (old : Nat → Byte) (new : List (Nat × Byte)) {a b : List Byte} (h : a.length = b.length) :
    xorBytes (placeBytes (new.map fun x => (x.1, old x.1)) a) (placeBytes new b) =
      placeBytes (new.map fun x => (x.1, old x.1 ^^^ x.2)) (xorBytes a b) := by
  induction new generalizing a b with
  | nil => rfl
  | cons p new ih =>
    have overlaid : (overlay p.1 [old p.1] a).length = (overlay p.1 [p.2] b).length := by simp [overlay, h]
    simp only [List.map_cons, placeBytes_cons]
    rw [ih overlaid, xorBytes_overlay h]

/-! ## The delta guard (R32) and Law 6 (R33) -/

/-- The enabled bytes' offsets with the values the block holds there: the old values of R32. -/
abbrev storedBytes (D : List Byte) (new : List (Nat × Byte)) : List (Nat × Byte) := new.map fun x => (x.1, D.getD x.1 0)

theorem storedBytes_offset_lt {D : List Byte} {new : List (Nat × Byte)} (h : ∀ x ∈ new, x.1 < D.length) :
    ∀ x ∈ storedBytes D new, x.1 < D.length := List.forall_mem_map.mpr h

/-- Writing back what the block holds leaves the block. -/
theorem placeBytes_storedBytes {D : List Byte} {new : List (Nat × Byte)} (h : ∀ x ∈ new, x.1 < D.length) :
    placeBytes (storedBytes D new) D = D :=
  placeBytes_same (storedBytes_offset_lt h) (List.forall_mem_map.mpr fun _ _ => rfl)

/-- The enabled bytes alone, on zeros before and after, differ as the block and the merged block do. -/
theorem xorBytes_sparseBlock {D : List Byte} {new : List (Nat × Byte)} (h : ∀ x ∈ new, x.1 < D.length) :
    xorBytes (sparseBlock D.length (storedBytes D new)) (sparseBlock D.length new) =
      xorBytes D (placeBytes new D) := by
  calc xorBytes (sparseBlock D.length (storedBytes D new)) (sparseBlock D.length new)
      = placeBytes (new.map fun x => (x.1, D.getD x.1 0 ^^^ x.2)) (List.replicate D.length 0) := by
        rw [sparseBlock_eq_placeBytes, sparseBlock_eq_placeBytes, xorBytes_placeBytes (D.getD · 0) new rfl, xorBytes_self,
          List.length_replicate]
    _ = xorBytes (placeBytes (storedBytes D new) D) (placeBytes new D) := by
        rw [xorBytes_placeBytes (D.getD · 0) new rfl, xorBytes_self]
    _ = xorBytes D (placeBytes new D) := by rw [placeBytes_storedBytes h]

/-- The delta guard is the stored guard changed as the block's CRC changes (R32). -/
theorem deltaGuard_eq (G : BitVec 32) {D : List Byte} {new : List (Nat × Byte)} (h : ∀ x ∈ new, x.1 < D.length) :
    deltaGuard G D.length (storedBytes D new) new = G ^^^ crc D ^^^ crc (placeBytes new D) := by
  have equalLength := (sparseBlock_length (storedBytes_offset_lt h)).trans (sparseBlock_length h).symm
  rw [deltaGuard, BitVec.xor_assoc, BitVec.xor_assoc,
    crc_xor_crc_congr equalLength (placeBytes_length h).symm (xorBytes_sparseBlock h)]

/-- An enabled byte that keeps its value leaves the merged block as it is without it. -/
theorem placeBytes_append_unchanged {D : List Byte} {new : List (Nat × Byte)} (h : ∀ x ∈ new, x.1 < D.length) {k : Nat}
    (hk : k < D.length) (hnew : k ∉ new.map (·.1)) : placeBytes (new ++ [(k, D.getD k 0)]) D = placeBytes new D := by
  rw [placeBytes_append_singleton, ← placeBytes_getD h hnew, overlay_getD (by rwa [placeBytes_length h])]

/-- Law 6: a delta merge leaves the syndrome as it was (R33). -/
theorem syndrome_deltaGuard {t t' : Tag} {D : List Byte} {new : List (Nat × Byte)} (h : ∀ x ∈ new, x.1 < D.length)
    (ht : t'.guard = deltaGuard t.guard D.length (storedBytes D new) new) :
    syndrome t' (placeBytes new D) = syndrome t D := by
  rw [syndrome, ht, deltaGuard_eq _ h, BitVec.xor_assoc, BitVec.xor_self, BitVec.xor_zero, syndrome]

theorem syndrome_eq_zero_iff (t : Tag) (bytes : List Byte) : syndrome t bytes = 0 ↔ t.guard = crc bytes := BitVec.xor_eq_zero_iff

theorem dataEvaluation_eq_corrupt_iff (t : Tag) (bytes : List Byte) : dataEvaluation t bytes = .corrupt ↔ crc bytes ≠ t.guard := by
  rw [dataEvaluation]
  split <;> simp [*]

theorem dataEvaluation_eq_sound_iff (t : Tag) (bytes : List Byte) : dataEvaluation t bytes = .sound ↔ crc bytes = t.guard := by
  rw [dataEvaluation]
  split <;> simp [*]

/-- A block is CORRUPT exactly when its syndrome is not zero (R29, R31). -/
theorem dataEvaluation_eq_corrupt_iff_syndrome (t : Tag) (bytes : List Byte) :
    dataEvaluation t bytes = .corrupt ↔ syndrome t bytes ≠ 0 := by
  rw [dataEvaluation_eq_corrupt_iff, Ne, Ne, syndrome_eq_zero_iff, eq_comm]

/-- Settles O4: the delta guard follows the CRC, so the syndrome stays, and with it the verdict. -/
theorem deltaGuardKeepsTheSyndrome : Obligations.DeltaGuardKeepsTheSyndrome := by
  refine ⟨fun G D new h => ⟨deltaGuard_eq G h, ?_, fun same => ?_⟩, fun t t' D new h ht => ?_⟩
  · rintro k _ hk rfl hnew
    have inBlock : ∀ x ∈ new ++ [(k, D.getD k 0)], x.1 < D.length :=
      List.forall_mem_append.mpr ⟨h, List.forall_mem_singleton.mpr hk⟩
    rw [deltaGuard_eq G inBlock, deltaGuard_eq G h, placeBytes_append_unchanged h hk hnew]
  · rw [deltaGuard_eq G h, placeBytes_same h same, BitVec.xor_assoc, BitVec.xor_self, BitVec.xor_zero]
  · have law6 := syndrome_deltaGuard h ht
    refine ⟨law6, fun sound => ?_, ?_⟩
    · rwa [← syndrome_eq_zero_iff, law6]
    · rw [dataEvaluation_eq_corrupt_iff_syndrome, dataEvaluation_eq_corrupt_iff_syndrome, law6]

/-! ## The verdict order (R26 to R29) -/

/-- The locator is as expected exactly when it is the block index plus the seed, modulo 2^16 (R20, R27). -/
theorem locator_eq_locatorOf_iff (g : Region) (i : Nat) (l : BitVec 16) :
    l = locatorOf g i ↔ l.toNat = (i + g.seed.toNat) % 65536 := by
  rw [← BitVec.toNat_inj, locatorOf_eq, BitVec.toNat_ofNat]

section
variable {g : Region} {captured : Epoch} {i : Nat} {t : Tag}

/-- Step 1: another epoch is BLANK at or past the frontier of the region's own epoch, and STALE elsewhere (R26). -/
theorem tagEvaluation_of_epoch_ne (he : t.epoch ≠ captured) :
    tagEvaluation g captured i t = if captured = g.epoch ∧ g.frontier ≤ i then .blank else .stale := if_pos he

/-- Step 2: the locator, when it is checked (R27). -/
theorem tagEvaluation_of_misplaced (he : t.epoch = captured) (hc : g.checkSet.locator = true) (hl : t.locator ≠ locatorOf g i) :
    tagEvaluation g captured i t = .misplaced := by
  rw [tagEvaluation, if_neg (not_not_intro he), if_pos ⟨hc, hl⟩]

/-- Steps 3 and 4: past the locator, the label when it is checked, then the blank flag (R27, R28). -/
theorem tagEvaluation_of_placed (he : t.epoch = captured) (hl : g.checkSet.locator = false ∨ t.locator = locatorOf g i) :
    tagEvaluation g captured i t =
      if g.checkSet.label ∧ t.label ≠ g.label then .foreign else if t.blank then .blank else .sound := by
  have placed : ¬ (g.checkSet.locator ∧ t.locator ≠ locatorOf g i) :=
    fun ⟨checked, differs⟩ => hl.elim (fun off => Bool.eq_false_iff.mp off checked) differs
  rw [tagEvaluation, if_neg (not_not_intro he), if_neg placed]

/-- Step 4: past the label, the blank flag decides (R28). -/
theorem tagEvaluation_of_labelled (he : t.epoch = captured) (hl : g.checkSet.locator = false ∨ t.locator = locatorOf g i)
    (hb : g.checkSet.label = false ∨ t.label = g.label) :
    tagEvaluation g captured i t = if t.blank then .blank else .sound := by
  have labelled : ¬ (g.checkSet.label ∧ t.label ≠ g.label) :=
    fun ⟨checked, differs⟩ => hb.elim (fun off => Bool.eq_false_iff.mp off checked) differs
  rw [tagEvaluation_of_placed he hl, if_neg labelled]

end

/-- Settles O6: each clause is the step of the verdict order that decides it, the steps before it having passed. -/
theorem verdictOrder : Obligations.VerdictOrder := by
  intro g captured i t
  refine ⟨fun he hc hf => ?_, fun he hf => ?_, fun he => ⟨fun hc hl => ?_, fun hl => ?_⟩, fun bytes => ⟨?_, ?_⟩⟩
  · rw [tagEvaluation_of_epoch_ne he, if_pos ⟨hc, hf⟩]
  · rw [tagEvaluation_of_epoch_ne he, if_neg hf]
  · exact tagEvaluation_of_misplaced he hc (mt (locator_eq_locatorOf_iff g i t.locator).mp hl)
  · have placed : g.checkSet.locator = false ∨ t.locator = locatorOf g i :=
      hl.imp_right (locator_eq_locatorOf_iff g i t.locator).mpr
    refine ⟨fun hc hb => ?_, fun hb => ⟨fun ht => ?_, fun ht => ?_⟩⟩
    · rw [tagEvaluation_of_placed he placed, if_pos ⟨hc, hb⟩]
    · rw [tagEvaluation_of_labelled he placed hb, if_pos ht]
    · rw [tagEvaluation_of_labelled he placed hb, if_neg (by rw [ht]; decide)]
  · exact (dataEvaluation_eq_corrupt_iff t bytes).mpr
  · exact (dataEvaluation_eq_sound_iff t bytes).mpr

end Sys2Proof.Machine
end

section
/-! PROOFS. Every step keeps Law 1 and, of Law 2, distinct keys, no empty entry and at most 31 upstream entries (R35 to R37, R41): a
cascade keeps them, an admission joins no more blocks than it has places for, and no other command touches the entries before its
cascade. -/

namespace Sys2Proof.Machine

/-! ## The entry of a block -/

theorem Entry.isFor_iff (e : Entry) (r : RegionId) (b : Nat) : e.isFor r b = true ↔ e.region = r ∧ e.block = b := by
  simp [Entry.isFor]

/-- Where one entry alone is the block's, it is the one found, whatever stands around it. -/
theorem find_isFor {front back : List Entry} {e : Entry} {r : RegionId} {b : Nat} (he : e.isFor r b = true)
    (hx : ∀ x ∈ front ++ back, x.isFor r b = false) : (front ++ e :: back).find? (Entry.isFor r b) = some e :=
  List.find?_eq_some_iff_append.mpr ⟨he, front, back, rfl, fun x h => by simp [hx x (List.mem_append_left _ h)]⟩

/-- Where one entry alone is the block's, a change of the block's entry is a change of that one. -/
theorem map_isFor {front back : List Entry} {e : Entry} {r : RegionId} {b : Nat} (he : e.isFor r b = true)
    (hx : ∀ x ∈ front ++ back, x.isFor r b = false) (f : Entry → Entry) :
    ((front ++ e :: back).map fun x => if x.isFor r b then f x else x) = front ++ f e :: back := by
  have unchanged (l : List Entry) (hl : ∀ x ∈ l, x ∈ front ++ back) :
      (l.map fun x => if x.isFor r b then f x else x) = l := by
    refine (List.map_congr_left fun x h => ?_).trans (List.map_id' l)
    rw [if_neg (by simp [hx x (hl x h)])]
  rw [List.map_append, List.map_cons, unchanged front fun _ => List.mem_append_left _,
    unchanged back fun _ => List.mem_append_right _, if_pos he]

/-- With distinct keys, the entry found is the block's only one. -/
theorem split_of_find_isFor {es : List Entry} (h : (es.map Entry.key).Nodup) {r : RegionId} {b : Nat} {e : Entry}
    (he : es.find? (Entry.isFor r b) = some e) :
    e.isFor r b = true ∧ ∃ front back, es = front ++ e :: back ∧ ∀ x ∈ front ++ back, x.isFor r b = false := by
  obtain ⟨ke, front, back, rfl, hfront⟩ := List.find?_eq_some_iff_append.mp he
  refine ⟨ke, front, back, rfl, fun x hx => ?_⟩
  rcases List.mem_append.mp hx with hx | hx
  · simpa using hfront x hx
  · refine Bool.eq_false_iff.mpr fun kx => ?_
    rw [List.map_append, List.map_cons, List.nodup_append, List.nodup_cons] at h
    obtain ⟨_, ⟨hnot, _⟩, _⟩ := h
    obtain ⟨hr, hb⟩ := (x.isFor_iff r b).mp kx
    obtain ⟨er, eb⟩ := (e.isFor_iff r b).mp ke
    exact hnot (List.mem_map.mpr ⟨x, hx, by simp [Entry.key, hr, hb, er, eb]⟩)

/-! ## An upstream operation joins blocks (R41, R42) -/

/-- Whether an upstream operation that joins a block needs a place there: the block has no entry, or one with no upstream operation
(R41). -/
def needsPlace (es : List Entry) (r : RegionId) (b : Nat) : Bool := !(es.find? (Entry.isFor r b)).any Entry.isUpstream

theorem placesNeeded_eq (s : State) (i : SlotId) :
    placesNeeded s i = (s.slot i).parts.countP fun p => needsPlace s.obt.entries (s.slot i).regionId p.block := rfl

/-- Joining a block makes at most the one entry upstream that needed a place. -/
theorem upstreamCount_join_le {es : List Entry} (h : (es.map Entry.key).Nodup) (op : OpId) (m : Mode) (r : RegionId) (b : Nat) :
    upstreamCount (joinEntries op m r b es) ≤ upstreamCount es + (needsPlace es r b).toNat := by
  unfold joinEntries needsPlace
  cases he : es.find? (Entry.isFor r b) with
  | none =>
    have hany : es.any (Entry.isFor r b) = false := by simpa using he
    rw [if_neg (by simp [hany])]
    unfold upstreamCount
    rw [List.countP_append]
    exact Nat.add_le_add_left List.countP_le_length _
  | some e =>
    obtain ⟨ke, front, back, rfl, hx⟩ := split_of_find_isFor h he
    rw [if_pos (List.any_eq_true.mpr ⟨e, by simp, ke⟩),
      map_isFor ke hx fun x => { x with waiters := x.waiters ++ [(op, m)] }]
    simp only [upstreamCount, List.countP_append, List.countP_cons, Option.any_some]
    cases e.isUpstream <;> simp <;> split <;> omega

/-- Joining a block keeps every upstream entry upstream, so that no block comes to need a place. -/
theorem needsPlace_join {es : List Entry} {op : OpId} {m : Mode} {r q : RegionId} {b c : Nat}
    (h : needsPlace (joinEntries op m r b es) q c = true) : needsPlace es q c = true := by
  unfold needsPlace at h ⊢
  cases he : es.find? (Entry.isFor q c) with
  | none => rfl
  | some e =>
    have joined : ∃ e', (joinEntries op m r b es).find? (Entry.isFor q c) = some e' ∧ (e.isUpstream = true → e'.isUpstream = true) := by
      unfold joinEntries
      split
      · refine ⟨if e.isFor r b then { e with waiters := e.waiters ++ [(op, m)] } else e, ?_, ?_⟩
        · have same : (Entry.isFor q c ∘ fun x : Entry => if x.isFor r b then { x with waiters := x.waiters ++ [(op, m)] } else x)
              = Entry.isFor q c := by
            funext x; simp only [Function.comp]; split <;> rfl
          rw [List.find?_map, same, he]
          rfl
        · split
          · intro hu
            simp only [Entry.isUpstream, List.any_append] at hu ⊢
            rw [← Bool.or_assoc, hu, Bool.true_or]
          · exact id
      · exact ⟨e, by rw [List.find?_append, he]; rfl, id⟩
    obtain ⟨e', he', hu⟩ := joined
    rw [he', Option.any_some, Bool.not_eq_true'] at h
    rw [Option.any_some, Bool.not_eq_true']
    exact Bool.eq_false_iff.mpr (mt hu (Bool.eq_false_iff.mp h))

/-- A list of blocks joined in order, on the entries alone. -/
def joinAll (op : OpId) (m : Mode) (r : RegionId) (ps : List Part) (es : List Entry) : List Entry :=
  ps.foldl (fun es p => joinEntries op m r p.block es) es

/-- The entries after an operation joined the blocks of its parts. -/
theorem joinBlocks_entries (op : OpId) (m : Mode) (r : RegionId) (ps : List Part) (s : State) :
    (ps.foldl (fun u p => joinBlock op m r p.block u) s).obt.entries = joinAll op m r ps s.obt.entries :=
  (List.foldl_hom (fun u : State => u.obt.entries) fun _ _ => rfl).symm

theorem EntriesLaw.joinAll {es : List Entry} (h : EntriesLaw es) (op : OpId) (m : Mode) (r : RegionId) (ps : List Part) :
    EntriesLaw (joinAll op m r ps es) := by
  induction ps generalizing es with
  | nil => exact h
  | cons p ps ih => exact ih (h.join op m r p.block)

/-- Joining the blocks of its parts, an operation makes at most as many entries upstream as it needed places for. -/
theorem upstreamCount_joinAll_le {es : List Entry} (h : EntriesLaw es) (op : OpId) (m : Mode) (r : RegionId) (ps : List Part) :
    upstreamCount (joinAll op m r ps es) ≤ upstreamCount es + ps.countP fun p => needsPlace es r p.block := by
  induction ps generalizing es with
  | nil => exact Nat.le_refl _
  | cons p ps ih =>
    have hjoin := upstreamCount_join_le h.2 op m r p.block
    have hrest := ih (h.join op m r p.block)
    have hmono : (ps.countP fun x => needsPlace (joinEntries op m r p.block es) r x.block)
        ≤ ps.countP fun x => needsPlace es r x.block := List.countP_mono_left fun _ _ => needsPlace_join
    rw [List.countP_cons]
    change upstreamCount (joinAll op m r ps (joinEntries op m r p.block es)) ≤ _
    cases hp : needsPlace es r p.block <;> simp only [hp, Bool.toNat_false, Bool.toNat_true] at hjoin <;> simp <;> omega

/-! ## The laws together, and what keeps them -/

/-- The laws of the Open Block Table that every step keeps: Law 1 and, of Law 2, distinct keys, no empty entry, and at most 31
upstream entries. -/
def openBlockLaws (s : State) : Prop := entriesLaw s ∧ upstreamLaw s

theorem openBlockLaws_iff (s : State) : openBlockLaws s ↔ EntriesLaw s.obt.entries ∧ upstreamCount s.obt.entries ≤ 31 := Iff.rfl

/-- The laws are about the entries alone. -/
theorem openBlockLaws_of_entries {s t : State} (h : openBlockLaws s) (e : t.obt.entries = s.obt.entries) : openBlockLaws t := by
  rw [openBlockLaws_iff] at h ⊢
  rw [e]
  exact h

/-- An empty table keeps the laws. -/
theorem openBlockLaws_of_empty {s : State} (e : s.obt.entries = []) : openBlockLaws s := by
  rw [openBlockLaws_iff, e]
  exact ⟨⟨by simp, List.nodup_nil⟩, Nat.zero_le _⟩

theorem Moves.openBlockLaws {s t : State} (m : Moves s t) (h : openBlockLaws s) : openBlockLaws t :=
  ⟨m.entriesLaw h.1, Nat.le_trans (m.upstream h.1) h.2⟩

/-- `t` comes from `s` by changes outside the Open Block Table and then a cascade. -/
def CascadeFrom (s t : State) : Prop := ∃ u : State, u.obt = s.obt ∧ Moves u t

section
variable {s t u : State}

theorem cascadeFrom_of_obt (e : t.obt = s.obt) : CascadeFrom s t := ⟨t, e, .refl⟩

theorem cascadeFrom_of_moves (m : Moves s t) : CascadeFrom s t := ⟨s, rfl, m⟩

theorem CascadeFrom.moves (h : CascadeFrom s t) (m : Moves t u) : CascadeFrom s u := by
  obtain ⟨v, e, k⟩ := h
  exact ⟨v, e, k.trans m⟩

theorem CascadeFrom.after_obt (h : CascadeFrom t u) (e : t.obt = s.obt) : CascadeFrom s u := by
  obtain ⟨v, k, m⟩ := h
  exact ⟨v, k.trans e, m⟩

theorem CascadeFrom.openBlockLaws (h : CascadeFrom s t) (k : openBlockLaws s) : openBlockLaws t := by
  obtain ⟨v, e, m⟩ := h
  exact m.openBlockLaws (openBlockLaws_of_entries k (congrArg OpenBlockTable.entries e))
end

/-! ## Mailbox commands: none touches the table before its cascade -/

section
variable (c : Command) (s : State)

theorem onRegion_obt {f : RegionId → State → State} (hf : ∀ r, (f r s).obt = s.obt) : (onRegion c f s).obt = s.obt := by
  unfold onRegion
  split
  · rfl
  · exact hf _

theorem onRegion_cascadeFrom {f : RegionId → State → State} (hf : ∀ r, CascadeFrom s (f r s)) :
    CascadeFrom s (onRegion c f s) := by
  unfold onRegion
  split
  · exact cascadeFrom_of_obt rfl
  · exact hf _

theorem cmdDefineRegion_obt : (cmdDefineRegion c s).obt = s.obt := by
  refine onRegion_obt c s fun r => ?_
  unfold defineRegion
  split
  · rfl
  · split
    · rfl
    · split <;> rfl

theorem cmdClearRegion_obt : (cmdClearRegion c s).obt = s.obt := by
  refine onRegion_obt c s fun r => ?_
  unfold clearRegion
  split
  · rfl
  · split <;> rfl

theorem cmdQueryRegion_obt : (cmdQueryRegion c s).obt = s.obt := by
  refine onRegion_obt c s fun r => ?_
  simp only [finishCommand_obt, writeResults_obt]

theorem cmdSetAccess_obt : (cmdSetAccess c s).obt = s.obt := by
  unfold cmdSetAccess
  split
  · split <;> rfl
  · rfl

theorem cmdMapRequester_obt : (cmdMapRequester c s).obt = s.obt := by
  unfold cmdMapRequester
  split <;> rfl

theorem cmdSetUnmappedPolicy_obt : (cmdSetUnmappedPolicy c s).obt = s.obt := by
  unfold cmdSetUnmappedPolicy
  split <;> rfl

theorem cmdUnfence_obt : (cmdUnfence c s).obt = s.obt := by
  refine onRegion_obt c s fun r => ?_
  split <;> rfl

theorem cmdSetHealth_obt : (cmdSetHealth c s).obt = s.obt := by
  refine onRegion_obt c s fun r => ?_
  unfold setHealth
  split
  · rfl
  · split
    · rfl
    · split <;> rfl

theorem cmdClearHealth_obt : (cmdClearHealth c s).obt = s.obt := onRegion_obt c s fun _ => rfl

theorem cmdLockHealth_obt : (cmdLockHealth c s).obt = s.obt := onRegion_obt c s fun _ => rfl

theorem cmdSetPacing_obt : (cmdSetPacing c s).obt = s.obt := by
  unfold cmdSetPacing
  split <;> rfl

theorem cmdSetTimeout_obt : (cmdSetTimeout c s).obt = s.obt := by
  unfold cmdSetTimeout
  split <;> rfl

theorem cmdSetSweepShare_obt : (cmdSetSweepShare c s).obt = s.obt := by
  unfold cmdSetSweepShare
  split <;> rfl

theorem cmdSetLogMask_obt : (cmdSetLogMask c s).obt = s.obt := by
  unfold cmdSetLogMask
  split <;> rfl

theorem cmdSetAlertMask_obt : (cmdSetAlertMask c s).obt = s.obt := by
  unfold cmdSetAlertMask
  split <;> simp only [finishCommand_obt, withEl_obt]

theorem cmdActivate_cascadeFrom : CascadeFrom s (cmdActivate c s) := by
  refine (onRegion_cascadeFrom c s fun r => ?_).moves (moves_run .refl)
  unfold activate
  split
  · exact cascadeFrom_of_obt rfl
  · split
    · split
      · exact cascadeFrom_of_obt rfl
      · exact CascadeFrom.moves (cascadeFrom_of_obt (by simp [acceptJob])) (moves_startNext .refl)
    · exact cascadeFrom_of_obt rfl

theorem cmdDeactivate_cascadeFrom : CascadeFrom s (cmdDeactivate c s) := by
  refine (onRegion_cascadeFrom c s fun r => ?_).moves (moves_run .refl)
  unfold deactivate
  split
  · next hd =>
    exact ⟨startLong (.deactivate r) s, rfl,
      moves_startDrain (t := startLong (.deactivate r) s) r (RegionState.ne_empty_of_drainable hd) .refl⟩
  · exact cascadeFrom_of_obt rfl

theorem cmdFormat_cascadeFrom : CascadeFrom s (cmdFormat c s) := by
  refine (onRegion_cascadeFrom c s fun r => ?_).moves (moves_run .refl)
  unfold formatRegion
  split
  · exact cascadeFrom_of_obt rfl
  · split
    · exact cascadeFrom_of_obt rfl
    · exact CascadeFrom.moves (cascadeFrom_of_obt (by simp [acceptJob])) (moves_cancelJobs _ .refl)

theorem queueRange_cascadeFrom (k : JobKind) (r : RegionId) : CascadeFrom s (queueRange k c r s) := by
  unfold queueRange
  split
  · exact cascadeFrom_of_obt rfl
  · split
    · exact cascadeFrom_of_obt rfl
    · exact CascadeFrom.moves (cascadeFrom_of_obt (by simp [acceptJob])) (moves_startNext .refl)

theorem cmdScrub_cascadeFrom : CascadeFrom s (cmdScrub c s) := by
  refine (onRegion_cascadeFrom c s fun r => ?_).moves (moves_run .refl)
  unfold scrubRegion
  split
  · exact cascadeFrom_of_obt rfl
  · exact queueRange_cascadeFrom c s .scrub r

theorem cmdReblank_cascadeFrom : CascadeFrom s (cmdReblank c s) := by
  refine (onRegion_cascadeFrom c s fun r => ?_).moves (moves_run .refl)
  unfold reblankRegion
  split
  · exact cascadeFrom_of_obt rfl
  · exact queueRange_cascadeFrom c s .reblank r

theorem cmdCancelSweep_cascadeFrom : CascadeFrom s (cmdCancelSweep c s) := by
  unfold cmdCancelSweep
  split
  · exact cascadeFrom_of_obt rfl
  · split
    · exact cascadeFrom_of_obt rfl
    · split
      · exact cascadeFrom_of_obt rfl
      · exact ⟨finishCommand .doneOk s, rfl, moves_run (moves_cancelJobs _ .refl)⟩

theorem cmdQuerySweep_obt : (cmdQuerySweep s).obt = s.obt := by
  simp only [cmdQuerySweep, finishCommand_obt, writeResults_obt]

theorem cmdFlush_cascadeFrom : CascadeFrom s (cmdFlush c s) := by
  unfold cmdFlush
  split
  · exact cascadeFrom_of_obt rfl
  · exact ⟨startLong .flush s, rfl, moves_makeFlush _ _ .refl⟩

theorem cmdResetEngine_cascadeFrom : CascadeFrom s (cmdResetEngine s) :=
  ⟨drainRegions (markReset (startLong (.resetEngine false) s)), rfl,
    moves_run (moves_push _ (moves_abandonAll (moves_cancelJobs _ .refl)))⟩

/-- Every mailbox command, by its own lemma: what it does before its cascade leaves the Open Block Table as it is. -/
theorem runCommand_cascadeFrom : CascadeFrom s (runCommand c s) := by
  unfold runCommand
  split
  · exact cascadeFrom_of_obt (cmdDefineRegion_obt c s)
  · exact cascadeFrom_of_obt (cmdClearRegion_obt c s)
  · exact cascadeFrom_of_obt (cmdQueryRegion_obt c s)
  · exact cascadeFrom_of_obt (cmdSetAccess_obt c s)
  · exact cascadeFrom_of_obt (cmdMapRequester_obt c s)
  · exact cascadeFrom_of_obt (cmdSetUnmappedPolicy_obt c s)
  · exact cmdActivate_cascadeFrom c s
  · exact cmdDeactivate_cascadeFrom c s
  · exact cascadeFrom_of_obt (cmdUnfence_obt c s)
  · exact cascadeFrom_of_obt (cmdSetHealth_obt c s)
  · exact cascadeFrom_of_obt (cmdClearHealth_obt c s)
  · exact cascadeFrom_of_obt (cmdLockHealth_obt c s)
  · exact cmdFormat_cascadeFrom c s
  · exact cmdScrub_cascadeFrom c s
  · exact cmdReblank_cascadeFrom c s
  · exact cmdCancelSweep_cascadeFrom c s
  · exact cascadeFrom_of_obt (cmdSetPacing_obt c s)
  · exact cascadeFrom_of_obt (cmdQuerySweep_obt s)
  · exact cmdFlush_cascadeFrom c s
  · exact cascadeFrom_of_obt (cmdSetTimeout_obt c s)
  · exact cascadeFrom_of_obt (cmdSetSweepShare_obt c s)
  · exact cascadeFrom_of_obt (cmdSetLogMask_obt c s)
  · exact cascadeFrom_of_obt (cmdSetAlertMask_obt c s)
  · exact cascadeFrom_of_obt rfl
  · exact cmdResetEngine_cascadeFrom s
  · exact cascadeFrom_of_obt rfl
end

/-! ## Bytes on the bus -/

theorem writeRegister_cascadeFrom (off v : Byte) (s : State) : CascadeFrom s (writeRegister off v s) := by
  unfold writeRegister
  split
  · exact cascadeFrom_of_obt rfl
  · split
    · unfold writeCommand
      split
      · exact cascadeFrom_of_obt rfl
      · exact (runCommand_cascadeFrom _ (handOver v s)).after_obt rfl
    · split
      · exact cascadeFrom_of_obt rfl
      · split
        · exact cascadeFrom_of_obt (withMp_obt s _)
        · exact cascadeFrom_of_obt rfl

theorem takeByte_cascadeFrom (v : Byte) (s : State) : CascadeFrom s (takeByte v s) := by
  unfold takeByte
  split
  · exact cascadeFrom_of_obt rfl
  · split
    · unfold takeAddress
      split <;> exact cascadeFrom_of_obt rfl
    · exact cascadeFrom_of_obt rfl
    · exact (writeRegister_cascadeFrom s.mp.offset v (acceptData s)).after_obt rfl
    all_goals exact cascadeFrom_of_obt rfl

/-! ## The other rows -/

theorem grantRequests_obt (n : Nat) (s : State) : (grantRequests n s).obt = s.obt := by
  induction n generalizing s with
  | zero => rfl
  | succ n ih =>
    unfold grantRequests
    split
    · rfl
    · split
      · rfl
      · exact ih _

theorem sendResponse_obt (s : State) : (sendResponse s).obt = s.obt := by
  unfold sendResponse
  split <;> rfl

theorem responseArrives_cascadeFrom (t : DownTagId) (ok : Bool) (d : List Byte) (s : State) :
    CascadeFrom s (responseArrives t ok d s) := by
  unfold responseArrives
  split
  · exact cascadeFrom_of_obt rfl
  · split
    · refine CascadeFrom.moves ?_ (moves_run .refl)
      unfold takeResponse
      split <;> exact CascadeFrom.moves (cascadeFrom_of_obt (by rfl)) (moves_complete _ _ _ .refl)
    · unfold lateResponse
      split <;> exact cascadeFrom_of_obt rfl

theorem responseExpired_cascadeFrom (t : DownTagId) (s : State) : CascadeFrom s (responseExpired t s) := by
  unfold responseExpired
  split
  · exact CascadeFrom.moves (cascadeFrom_of_obt (by rfl)) (moves_run (moves_complete _ _ _ .refl))
  · exact cascadeFrom_of_obt rfl

/-- An admission joins the head's blocks only with room for them, so U stays at most 31 (R41, R42). -/
theorem admitHead_openBlockLaws {i : SlotId} {s : State} (h : openBlockLaws s)
    (room : s.obt.upstream + placesNeeded s i ≤ Config.upstreamEntryLimit) : openBlockLaws (admitHead i s) := by
  obtain ⟨law, _⟩ := h
  have entries : (admitHead i s).obt.entries =
      joinAll (.slot i) (s.slot i).kind.mode (s.slot i).regionId (s.slot i).parts s.obt.entries := joinBlocks_entries ..
  rw [openBlockLaws_iff, entries]
  rw [placesNeeded_eq] at room
  exact ⟨law.joinAll .., Nat.le_trans (upstreamCount_joinAll_le law ..) room⟩

theorem examineAdmission_openBlockLaws {s : State} (h : openBlockLaws s) : openBlockLaws (examineAdmission s) := by
  unfold examineAdmission
  split
  · exact h
  · next i rest _ =>
    split
    · exact (moves_refuse _ _ _ _ (moves_withObt _ (by rfl) .refl)).openBlockLaws h
    · split
      · next room =>
        exact (moves_run .refl).openBlockLaws
          (admitHead_openBlockLaws (s := s.withObt { s.obt with admission := rest }) (openBlockLaws_of_entries h rfl) room)
      · exact h

/-- Every command keeps the laws of the Open Block Table. -/
theorem exec_openBlockLaws {c : Instr} {s t : State} (h : openBlockLaws s) (e : exec c s = .next t) : openBlockLaws t := by
  cases hb : busByte c with
  | some v =>
    rw [exec_of_busByte hb] at e
    cases e
    exact (takeByte_cascadeFrom v s).openBlockLaws h
  | none =>
    cases c with
    | readRequest q t a n => cases e; exact (moves_arrive _ .refl).openBlockLaws h
    | writeRequest q t a d m => cases e; exact (moves_arrive _ .refl).openBlockLaws h
    | responseSent => cases e; exact (cascadeFrom_of_obt (sendResponse_obt s)).openBlockLaws h
    | admissionExamination => cases e; exact examineAdmission_openBlockLaws h
    | bufferWaitExamination => cases e; exact (moves_run (moves_examineBuffers _ .refl)).openBlockLaws h
    | allocationExamination => cases e; exact (moves_examineAllocation _ .refl).openBlockLaws h
    | retryTimerExpiry l => cases e; exact (moves_retryExpired l .refl).openBlockLaws h
    | pacingTimerExpiry => cases e; exact (moves_pacingExpired s).openBlockLaws h
    | requestGrant => cases e; exact (cascadeFrom_of_obt (grantRequests_obt 16 s)).openBlockLaws h
    | downstreamResponse t ok d => cases e; exact (responseArrives_cascadeFrom t ok d s).openBlockLaws h
    | responseTimerExpiry t => cases e; exact (responseExpired_cascadeFrom t s).openBlockLaws h
    | quarantineTimerExpiry t => cases e; split <;> exact openBlockLaws_of_entries h rfl
    | logHeadRead m => cases e; split <;> exact openBlockLaws_of_entries h rfl
    | frstAsserted =>
      rw [← Host.Outcome.next.inj e]
      exact CascadeFrom.openBlockLaws ⟨s.withPins { s.pins with frst := true }, rfl, moves_run (moves_abandonAll .refl)⟩ h
    | frstReleased => cases e; exact openBlockLaws_of_entries h rfl
    | porstAsserted => cases e; exact openBlockLaws_of_empty rfl
    | porstReleased a =>
      cases e
      split
      · exact openBlockLaws_of_empty rfl
      · exact h
    | startCondition => cases e; split <;> exact openBlockLaws_of_entries h rfl
    | stopCondition => cases e; split <;> exact openBlockLaws_of_entries h rfl
    | _ => cases hb

/-- Settles O54: the empty queue idles, and every command keeps the laws of the Open Block Table. -/
theorem everyStepKeepsTheOpenBlockLaws : Obligations.EveryStepKeepsTheOpenBlockLaws := by
  intro s t he hu e
  have h : openBlockLaws s := ⟨he, hu⟩
  unfold step at e
  split at e
  · cases e; exact h
  · next c rest _ => exact exec_openBlockLaws (s := s.withPending rest) (openBlockLaws_of_entries h rfl) e

end Sys2Proof.Machine
end

section
/-! PROOFS. The Open Block Table's operations (chapter 3): the grant rule and its application, the begin of an operation's work, and a
release (R45, R46, R48, R52 to R54). -/

namespace Sys2Proof.Machine

/-! ## The grant rule on one entry (R45) -/

theorem Entry.grant_of_no_waiter {e : Entry} (h : e.waiters = []) : e.grant = (e, []) := by
  unfold Entry.grant
  rw [h]

theorem Entry.grant_exclusive {e : Entry} {op : OpId} {rest : List (OpId × Mode)} (h : e.waiters = (op, .exclusive) :: rest) :
    e.grant = if e.holders.isEmpty then ({ e with holders := [(op, .exclusive)], waiters := rest }, [op]) else (e, []) := by
  unfold Entry.grant
  rw [h]

/-- A batch of SHARED waiters at the head, up to the first EXCLUSIVE one, is granted together or not at all. -/
theorem Entry.grant_shared {e : Entry} {batch rest : List (OpId × Mode)} (h : e.waiters = batch ++ rest) (hb : batch ≠ [])
    (shared : ∀ w ∈ batch, w.2 = .shared) (ends : ∀ w ws, rest = w :: ws → w.2 = .exclusive) :
    e.grant = if e.holders.any (·.2 == .exclusive) then (e, [])
      else ({ e with holders := e.holders ++ batch, waiters := rest }, batch.map (·.1)) := by
  have hs : ∀ w ∈ batch, (w.2 == Mode.shared) = true := fun w hw => by simp [shared w hw]
  have hr : rest.takeWhile (fun w => w.2 == .shared) = [] ∧ rest.dropWhile (fun w => w.2 == .shared) = rest := by
    cases rest with
    | nil => exact ⟨rfl, rfl⟩
    | cons w ws =>
      have hw : (w.2 == Mode.shared) = false := by rw [ends w ws rfl]; rfl
      exact ⟨List.takeWhile_cons_of_neg (by simp [hw]), List.dropWhile_cons_of_neg (by simp [hw])⟩
  have htake : e.waiters.takeWhile (fun w => w.2 == .shared) = batch := by
    rw [h, List.takeWhile_append_of_pos hs, hr.1, List.append_nil]
  have hdrop : e.waiters.dropWhile (fun w => w.2 == .shared) = rest := by
    rw [h, List.dropWhile_append_of_pos hs, hr.2]
  cases batch with
  | nil => exact absurd rfl hb
  | cons w ws =>
    obtain ⟨op, m⟩ := w
    obtain rfl : m = .shared := shared (op, m) List.mem_cons_self
    rw [← htake, ← hdrop]
    unfold Entry.grant
    rw [h]
    rfl

theorem any_exclusive_iff (hs : List (OpId × Mode)) : hs.any (·.2 == .exclusive) = true ↔ ∃ h ∈ hs, h.2 = .exclusive := by
  simp

/-- The three heads a waiter list can have. -/
theorem grantRule_entry (e : Entry) :
    (e.waiters = [] → e.grant = (e, [])) ∧
    (∀ op rest, e.waiters = (op, .exclusive) :: rest →
      (e.holders = [] → e.grant = ({ e with holders := [(op, .exclusive)], waiters := rest }, [op])) ∧
      (e.holders ≠ [] → e.grant = (e, []))) ∧
    ∀ batch rest, e.waiters = batch ++ rest → batch ≠ [] → (∀ w ∈ batch, w.2 = .shared) →
      (∀ w ws, rest = w :: ws → w.2 = .exclusive) →
      ((∀ h ∈ e.holders, h.2 = .shared) →
        e.grant = ({ e with holders := e.holders ++ batch, waiters := rest }, batch.map (·.1))) ∧
      ((∃ h ∈ e.holders, h.2 = .exclusive) → e.grant = (e, [])) := by
  refine ⟨Entry.grant_of_no_waiter, fun op rest h => ⟨fun hh => ?_, fun hh => ?_⟩,
    fun batch rest h hb shared ends => ⟨fun hh => ?_, fun hh => ?_⟩⟩
  · rw [Entry.grant_exclusive h, if_pos (by simp [hh])]
  · rw [Entry.grant_exclusive h, if_neg (by simpa using hh)]
  · rw [Entry.grant_shared h hb shared ends, if_neg]
    rw [any_exclusive_iff]
    rintro ⟨x, hx, ex⟩
    exact absurd (hh x hx) (by simp [ex])
  · rw [Entry.grant_shared h hb shared ends, if_pos ((any_exclusive_iff _).mpr hh)]

/-! ## The rule applied to a block (R46) -/

theorem applyGrant_of_no_entry {s : State} {r : RegionId} {b : Nat}
    (h : ∀ e ∈ s.obt.entries, ¬ (e.region = r ∧ e.block = b)) : applyGrant r b s = s := by
  have none : s.obt.entry r b = none :=
    List.find?_eq_none.mpr fun e he k => h e he ((e.isFor_iff r b).mp k)
  unfold applyGrant
  rw [none]

theorem applyGrant_of_entry {s : State} {r : RegionId} {b : Nat} {front back : List Entry} {e : Entry}
    (hs : s.obt.entries = front ++ e :: back) (hr : e.region = r) (hb : e.block = b)
    (hx : ∀ x ∈ front ++ back, ¬ (x.region = r ∧ x.block = b)) :
    applyGrant r b s = e.grant.2.foldl granted (s.withEntries (front ++ e.grant.1 :: back)) := by
  have ke : e.isFor r b = true := (e.isFor_iff r b).mpr ⟨hr, hb⟩
  have kx : ∀ x ∈ front ++ back, x.isFor r b = false := fun x m => Bool.eq_false_iff.mpr (mt (x.isFor_iff r b).mp (hx x m))
  have found : s.obt.entry r b = some e := by
    unfold OpenBlockTable.entry
    rw [hs]
    exact find_isFor ke kx
  unfold applyGrant
  rw [found, hs]
  dsimp only
  rw [map_isFor ke kx fun _ => e.grant.1]

/-! ## An operation granted a block, and the begin of its work (R46, R60, R75) -/

theorem Entry.heldBy_iff (op : OpId) (e : Entry) : e.heldBy op = true ↔ ∃ m, (op, m) ∈ e.holders := by
  simp [Entry.heldBy]

theorem Slot.regionId_eq {sl : Slot} {r : RegionId} (h : sl.region = some r) : sl.regionId = r := by
  simp [Slot.regionId, h]

/-- Whether a slot's operation holds a block, by the entry found for it. -/
theorem entry_any_heldBy_iff (s : State) (op : OpId) (r : RegionId) (b : Nat) :
    (s.obt.entry r b).any (Entry.heldBy op) = true ↔ ∃ e, s.obt.entry r b = some e ∧ ∃ m, (op, m) ∈ e.holders := by
  cases s.obt.entry r b <;> simp [Entry.heldBy_iff]

theorem holdsAll_iff {s : State} {i : SlotId} {r : RegionId} (h : (s.slot i).region = some r) :
    holdsAll s i = true ↔ ∀ p ∈ (s.slot i).parts, ∃ e, s.obt.entry r p.block = some e ∧ ∃ m, (OpId.slot i, m) ∈ e.holders := by
  simp only [holdsAll, List.all_eq_true, Slot.regionId_eq h, entry_any_heldBy_iff]

/-- The entry found for a block is one of its entries. -/
theorem entry_some {s : State} {r : RegionId} {b : Nat} {e : Entry} (h : s.obt.entry r b = some e) :
    e ∈ s.obt.entries ∧ e.region = r ∧ e.block = b :=
  ⟨List.mem_of_find?_eq_some h, (e.isFor_iff r b).mp (List.find?_some h)⟩

theorem entry_isSome {s : State} {r : RegionId} {b : Nat} (h : ∃ e ∈ s.obt.entries, e.region = r ∧ e.block = b) :
    ∃ e, s.obt.entry r b = some e := by
  obtain ⟨e, he, k⟩ := h
  exact Option.isSome_iff_exists.mp (List.find?_isSome.mpr ⟨e, he, (e.isFor_iff r b).mpr k⟩)

theorem granted_slot_of_holdsAll {s : State} {i : SlotId} (h : holdsAll s i = true) :
    granted s (.slot i) = { s with work := s.work ++ [.beginWork (.slot i)] } := if_pos h

theorem granted_slot_of_not_holdsAll {s : State} {i : SlotId} (h : ¬ holdsAll s i = true) : granted s (.slot i) = s := if_neg h

theorem granted_sweep {s : State} {j : Job} {rest : List Job} (h : s.su.jobs = j :: rest) :
    granted s .sweep = { s with
      su := { s.su with jobs := { j with step := .working } :: rest }, work := s.work ++ [.beginWork .sweep] } := by
  have step : setStep .working s = s.withSu { s.su with jobs := { j with step := .working } :: rest } := by
    unfold setStep
    rw [h]
  show (setStep .working s).push [.beginWork .sweep] = _
  rw [step]
  rfl

theorem beginWork_inactive {s : State} {i : SlotId} (h : (s.slot i).state ≠ .active) : beginWork (.slot i) s = s := if_neg h

/-- A lookup leaves the slot's region as it is, so every part of an operation is looked up in the same region. -/
theorem lookups_region {i : SlotId} {r : RegionId} (ps : List (Part × Nat)) {s : State} (h : (s.slot i).region = some r) :
    ps.foldl (fun s x => lookupTag (.slot i) x.2 (s.slot i).regionId x.1.block s) s =
      ps.foldl (fun s x => lookupTag (.slot i) x.2 r x.1.block s) s := by
  induction ps generalizing s with
  | nil => rfl
  | cons x ps ih =>
    rw [List.foldl_cons, List.foldl_cons, Slot.regionId_eq h]
    refine ih ?_
    unfold State.slot
    rw [lookupTag_tu]
    exact h

/-- An ACTIVE operation's parts are looked up in their order. -/
theorem beginWork_active {s : State} {i : SlotId} {r : RegionId} (h : (s.slot i).state = .active) (hr : (s.slot i).region = some r) :
    beginWork (.slot i) s = (s.slot i).parts.zipIdx.foldl (fun s x => lookupTag (.slot i) x.2 r x.1.block s) s := by
  rw [← lookups_region _ hr]
  exact if_pos h

/-! ## A release (R48, R50, R52 to R54) -/

/-- Pairs whose first component is not `a`. -/
theorem filter_fst_bne {α β : Type} [DecidableEq α] (a : α) (l : List (α × β)) : l.filter (·.1 != a) = l.filter (·.1 ≠ a) :=
  List.filter_congr fun _ _ => by rw [Bool.eq_iff_iff, bne_iff_ne, decide_eq_true_eq]

theorem Entry.without_eq (op : OpId) (e : Entry) :
    e.without op = { e with holders := e.holders.filter (·.1 ≠ op), waiters := e.waiters.filter (·.1 ≠ op) } := by
  unfold Entry.without
  rw [filter_fst_bne, filter_fst_bne]

theorem Entry.occupied_iff (e : Entry) : e.occupied = true ↔ e.holders ≠ [] ∨ e.waiters ≠ [] := by
  simp [Entry.occupied]

theorem Entry.has_eq (op : OpId) (e : Entry) : e.has op = (e.holders ++ e.waiters).any (·.1 = op) := by
  have same : (fun w : OpId × Mode => w.1 == op) = fun w => decide (w.1 = op) :=
    funext fun w => by rw [Bool.eq_iff_iff, beq_iff_eq, decide_eq_true_eq]
  rw [Entry.has, Entry.heldBy, same, List.any_append]

/-- The entries that stay, each without the operation, and an internal event for each it stood in. -/
theorem leaveBlocks_eq (op : OpId) (s : State) {out : Entry → Entry} {stays : Entry → Bool} (hout : out = Entry.without op)
    (hstays : stays = fun e => (e.without op).occupied) :
    leaveBlocks op s = { s with
      obt := { s.obt with entries := (s.obt.entries.filter stays).map out }
      work := s.work ++ (s.obt.entries.filter fun e => (e.holders ++ e.waiters).any (·.1 = op)).map fun e =>
        if stays e then .grant e.region e.block else .drainCheck e.region } := by
  subst hout hstays
  have left : (s.obt.entries.map (Entry.without op)).filter Entry.occupied =
      (s.obt.entries.filter fun e => (e.without op).occupied).map (Entry.without op) := List.filter_map
  have stood : s.obt.entries.filter (Entry.has op) = s.obt.entries.filter fun e => (e.holders ++ e.waiters).any (·.1 = op) :=
    List.filter_congr fun e _ => e.has_eq op
  unfold leaveBlocks
  rw [left, stood]
  rfl

theorem Buffer.release_of_owned {i : SlotId} {b : Buffer} (h : ∃ k, b.owner = some (i, k)) :
    b.release i = { b with owner := none } := by
  obtain ⟨k, hk⟩ := h
  unfold Buffer.release
  rw [hk]
  exact if_pos rfl

theorem Buffer.release_of_not_owned {i : SlotId} {b : Buffer} (h : ∀ k, b.owner ≠ some (i, k)) : b.release i = b := by
  unfold Buffer.release
  split
  · next j k hk => exact if_neg (by rintro rfl; exact h k hk)
  · rfl

/-- Two tables with the same entries are one. -/
theorem vector_ext_vget {α : Type} {n : Nat} {v w : Vector α n} (h : ∀ k, vget v k = vget w k) : v = w :=
  Vector.ext fun k hk => h ⟨k, hk⟩

theorem returnBuffers_slot (i : SlotId) (s : State) {B : Vector Buffer 8}
    (owned : ∀ b, (∃ k, (vget s.obt.buffers b).owner = some (i, k)) → vget B b = { vget s.obt.buffers b with owner := none })
    (others : ∀ b, (∀ k, (vget s.obt.buffers b).owner ≠ some (i, k)) → vget B b = vget s.obt.buffers b) :
    returnBuffers (.slot i) s = { s with obt := { s.obt with
      bufferWait := s.obt.bufferWait.filter (·.1 ≠ i), buffers := B } } := by
  have released : s.obt.buffers.map (Buffer.release i) = B := by
    refine vector_ext_vget fun b => ?_
    rw [vget_map]
    by_cases h : ∃ k, (vget s.obt.buffers b).owner = some (i, k)
    · rw [owned b h, Buffer.release_of_owned h]
    · have h' : ∀ k, (vget s.obt.buffers b).owner ≠ some (i, k) := fun k e => h ⟨k, e⟩
      rw [others b h', Buffer.release_of_not_owned h']
  rw [← released, ← filter_fst_bne]
  rfl

/-- Settles O8: the rule on one entry, its application to a block, the operation granted and its begin, and the release. -/
theorem grantRule : Obligations.GrantRule := by
  refine ⟨grantRule_entry, fun s r b => ⟨applyGrant_of_no_entry, ?_⟩, fun s i r hr => ⟨?_, ?_, beginWork_inactive, ?_⟩,
    fun s op out stays hout hstays => ⟨fun j rest => granted_sweep, rfl, ?_, fun i B => returnBuffers_slot i s, rfl⟩⟩
  · intro front back e e' ops hs er eb hx hg
    show applyGrant r b s = _
    rw [applyGrant_of_entry hs er eb hx, hg]
    rfl
  · intro h
    refine granted_slot_of_holdsAll ((holdsAll_iff hr).mpr fun p hp => ?_)
    obtain ⟨exists_entry, held⟩ := h p hp
    obtain ⟨e, he⟩ := entry_isSome exists_entry
    obtain ⟨hm, kr, kb⟩ := entry_some he
    exact ⟨e, he, held e hm kr kb⟩
  · rintro ⟨p, hp, waits⟩
    refine granted_slot_of_not_holdsAll fun k => ?_
    obtain ⟨e, he, m, hm⟩ := (holdsAll_iff hr).mp k p hp
    obtain ⟨hmem, kr, kb⟩ := entry_some he
    exact waits e hmem kr kb m hm
  · refine fun active => ⟨fun p hp => ?_, fun p p' hp => ?_⟩
    all_goals
      show beginWork (.slot i) s = _
      rw [beginWork_active active hr, hp]
      rfl
  · have out_eq : out = Entry.without op := funext fun e => (hout e).trans (e.without_eq op).symm
    refine leaveBlocks_eq op s out_eq (funext fun e => Bool.eq_iff_iff.mpr ?_)
    rw [hstays, out_eq]
    exact (Entry.occupied_iff _).symm

end Sys2Proof.Machine
end

section
/-! PROOFS. The laws at reset; the admission head (R40 to R42) and the head of the buffer wait FIFO (R53, R63, R64). -/

namespace Sys2Proof.Machine

/-! ## The laws at reset -/

theorem logLaw_reset : logLaw State.reset := ⟨Nat.zero_le _, trivial, by simp [State.reset, EventLog.powerOn]⟩

theorem openBlockLaws_reset : openBlockLaws State.reset := openBlockLaws_of_empty rfl

theorem tagsLaw_reset : tagsLaw State.reset := by
  intro t
  rw [reset_downTag]
  exact rfl

theorem regionsDisjoint_reset : regionsDisjoint State.reset := by
  intro r q _ d
  rw [reset_region] at d
  exact absurd d (by decide)

/-- Settles O52: law by law, on the power-on values. -/
theorem lawsHoldAtReset : Obligations.LawsHoldAtReset :=
  ⟨logLaw_reset, fun _ => rfl, openBlockLaws_reset.1, openBlockLaws_reset.2, tagsLaw_reset, by simp only [jobsLaw]; decide,
    by simp only [rangesLaw]; decide, fun _ => by decide, (fun h => nomatch h), regionsDisjoint_reset⟩

/-! ## The admission head (R40 to R42) -/

theorem RegionState.admits_iff (x : RegionState) : x.admits = true ↔ x = .online ∨ x = .formatting := by
  cases x <;> simp [RegionState.admits]

theorem Region.refuses_iff (g : Region) (k : Kind) :
    g.refuses k = true ↔ (g.state ≠ .online ∧ g.state ≠ .formatting) ∨ (g.fenced = true ∧ k = .write) := by
  rw [Region.refuses, Bool.or_eq_true, Bool.not_eq_true', Bool.eq_false_iff, ne_eq, RegionState.admits_iff, not_or,
    Bool.and_eq_true, beq_iff_eq]

theorem Region.not_refuses {g : Region} {k : Kind} (admits : g.state = .online ∨ g.state = .formatting)
    (unfenced : ¬ (g.fenced = true ∧ k = .write)) : ¬ g.refuses k = true := by
  rw [Region.refuses_iff]
  rintro (⟨notOnline, notFormatting⟩ | fenced)
  · exact admits.elim notOnline notFormatting
  · exact unfenced fenced

theorem slotRegion_eq {s : State} {i : SlotId} {r : RegionId} (h : (s.slot i).region = some r) : s.slotRegion i = s.region r := by
  rw [State.slotRegion, Slot.regionId_eq h]

theorem OpId.isUpstream_eq (op : OpId) : op.isUpstream = (op != .sweep) := by cases op <;> rfl

/-- An entry is upstream when an operation other than the sweep's stands in it (R36). -/
theorem Entry.isUpstream_eq (e : Entry) : e.isUpstream = (e.holders ++ e.waiters).any fun w => w.1 != .sweep := by
  simp only [Entry.isUpstream, List.any_append, OpId.isUpstream_eq]

/-- U counts the entries in which an operation other than the sweep's stands (R36). -/
theorem upstream_eq (o : OpenBlockTable) :
    o.upstream = o.entries.countP fun e => (e.holders ++ e.waiters).any fun w => w.1 != .sweep :=
  List.countP_congr fun e _ => by rw [e.isUpstream_eq]

theorem needsPlace_of_none {es : List Entry} {r : RegionId} {b : Nat} (h : es.find? (Entry.isFor r b) = none) :
    needsPlace es r b = true := by
  rw [needsPlace, h]
  rfl

theorem needsPlace_of_some {es : List Entry} {r : RegionId} {b : Nat} {e : Entry} (h : es.find? (Entry.isFor r b) = some e) :
    needsPlace es r b = (e.holders ++ e.waiters).all fun w => w.1 == .sweep := by
  rw [needsPlace, h, Option.any_some, Entry.isUpstream_eq, List.not_any_eq_all_not]
  simp only [bne, Bool.not_not]

section
variable {s : State} {i : SlotId} {rest : List SlotId}

theorem examineAdmission_nil (h : s.obt.admission = []) : examineAdmission s = s := by
  unfold examineAdmission
  rw [h]

theorem examineAdmission_refused (h : s.obt.admission = i :: rest) (refused : (s.slotRegion i).refuses (s.slot i).kind = true) :
    examineAdmission s =
      refuse i .unavailable (s.slot i).region (some (s.slot i).firstBlock) (s.withObt { s.obt with admission := rest }) := by
  unfold examineAdmission
  rw [h]
  exact if_pos refused

theorem examineAdmission_admitted (h : s.obt.admission = i :: rest) (admits : ¬ (s.slotRegion i).refuses (s.slot i).kind = true)
    (room : s.obt.upstream + placesNeeded s i ≤ 31) :
    examineAdmission s = run (admitHead i (s.withObt { s.obt with admission := rest })) := by
  unfold examineAdmission
  rw [h]
  exact (if_neg admits).trans (if_pos room)

theorem examineAdmission_waits (h : s.obt.admission = i :: rest) (admits : ¬ (s.slotRegion i).refuses (s.slot i).kind = true)
    (full : 31 < s.obt.upstream + placesNeeded s i) : examineAdmission s = s := by
  unfold examineAdmission
  rw [h]
  exact (if_neg admits).trans (if_neg (Nat.not_le.mpr full))
end

theorem refusalData_eq (sl : Slot) :
    refusalData sl = match sl.kind with
      | .read => List.replicate (min sl.length 256) 0
      | .write => [] := by
  unfold refusalData
  cases sl.kind <;> rfl

theorem Kind.mode_eq (k : Kind) : k.mode = match k with | .read => .shared | .write => .exclusive := by cases k <;> rfl

/-- The places the head needs, part by part (R41). -/
theorem placesNeeded_region {s : State} {i : SlotId} {r : RegionId} (h : (s.slot i).region = some r) :
    placesNeeded s i = (s.slot i).parts.countP fun p =>
      match s.obt.entries.find? fun e => e.region == r && e.block == p.block with
      | none => true
      | some e => (e.holders ++ e.waiters).all fun w => w.1 == .sweep := by
  rw [placesNeeded_eq, Slot.regionId_eq h]
  refine List.countP_congr fun p _ => ?_
  have found : (s.obt.entries.find? fun e => e.region == r && e.block == p.block) = s.obt.entries.find? (Entry.isFor r p.block) := rfl
  rw [found]
  cases he : s.obt.entries.find? (Entry.isFor r p.block) with
  | none => rw [needsPlace_of_none he]
  | some e => rw [needsPlace_of_some he]

/-- Settles O9: the three answers of the examination, by the region's refusal and the room. -/
theorem admissionHeadIsRefusedAdmittedOrWaits : Obligations.AdmissionHeadIsRefusedAdmittedOrWaits := by
  refine ⟨fun s h => congrArg Host.Outcome.next (examineAdmission_nil h), fun s i rest r h hr => ⟨fun refused => ?_, ?_⟩⟩
  · refine congrArg Host.Outcome.next ((examineAdmission_refused h ?_).trans ?_)
    · rw [slotRegion_eq hr]
      exact (Region.refuses_iff _ _).mpr refused
    · rw [hr, refuse, withObt_slot, refusalData_eq]
      rfl
  · intro admits unfenced U n hU hn
    obtain rfl : n = placesNeeded s i := hn.trans (placesNeeded_region hr).symm
    obtain rfl : U = s.obt.upstream := hU.trans (upstream_eq s.obt).symm
    have accepted : ¬ (s.slotRegion i).refuses (s.slot i).kind = true := by
      rw [slotRegion_eq hr]
      exact Region.not_refuses admits unfenced
    refine ⟨fun room => congrArg Host.Outcome.next ((examineAdmission_admitted h accepted room).trans ?_),
      fun full => congrArg Host.Outcome.next (examineAdmission_waits h accepted full)⟩
    rw [admitHead, withObt_slot, Slot.regionId_eq hr, Kind.mode_eq, slotRegion_eq (r := r) (by rw [withObt_slot, hr])]
    rfl

/-! ## The head of the buffer wait FIFO (R53, R63, R64) -/

theorem examineBuffers_waits (n : Nat) {s : State}
    (h : s.obt.bufferWait = [] ∨ ∃ i c rest, s.obt.bufferWait = (i, c) :: rest ∧ s.obt.freeBuffers.length < c) :
    examineBuffers n s = s := by
  cases n with
  | zero => rfl
  | succ n =>
    unfold examineBuffers
    obtain h | ⟨i, c, rest, h, few⟩ := h
    · rw [h]
    · rw [h]
      exact if_neg (Nat.not_le.mpr few)

theorem examineBuffers_served (n : Nat) {s : State} {i : SlotId} {c : Nat} {rest : List (SlotId × Nat)}
    (h : s.obt.bufferWait = (i, c) :: rest) (enough : c ≤ s.obt.freeBuffers.length) :
    examineBuffers (n + 1) s =
      examineBuffers n (proceed i (assignBuffers i (bufferNeeds s i) (s.withObt { s.obt with bufferWait := rest }))) := by
  rw [examineBuffers, h]
  exact if_pos enough

/-- The lowest-numbered free buffer heads the free ones. -/
theorem freeBuffers_cons {o : OpenBlockTable} {b : Fin 8} (free : (vget o.buffers b).owner = none)
    (lowest : ∀ c, c < b → (vget o.buffers c).owner ≠ none) : ∃ bs, o.freeBuffers = b :: bs := by
  have found : o.freeBuffers.head? = some b := by
    unfold OpenBlockTable.freeBuffers
    rw [List.head?_filter]
    refine find_finRange (by rw [free]; rfl) fun c hc => ?_
    rw [Option.isNone_eq_false_iff, Option.isSome_iff_ne_none]
    exact lowest c hc
  exact List.head?_eq_some_iff.mp found

/-- The lowest-numbered free buffer is assigned. -/
theorem assignBuffer_lowest {s : State} {b : Fin 8} (i : SlotId) (k : Nat) (free : (vget s.obt.buffers b).owner = none)
    (lowest : ∀ c, c < b → (vget s.obt.buffers c).owner ≠ none) :
    assignBuffer i s k = s.updBuffer b fun x => { x with owner := some (i, k) } := by
  obtain ⟨bs, hb⟩ := freeBuffers_cons free lowest
  unfold assignBuffer
  rw [hb]

/-- A read of one whole-block part needs one buffer, for that part (R52). -/
theorem bufferNeeds_wholeBlock {s : State} {i : SlotId} {r : RegionId} {p : Part} (hk : (s.slot i).kind = .read)
    (hr : (s.slot i).region = some r) (hp : (s.slot i).parts = [p]) (whole : p.needsBlock (s.region r) = true) :
    bufferNeeds s i = [0] := by
  have needs : Part.needsBuffer (s.region r) .read p = true := whole
  simp [bufferNeeds, Slot.partsWith, Slot.indexed, hk, hp, slotRegion_eq hr, needs]

/-- A read with a part that is not DONE does not end (R67). -/
theorem endReadIfDone_of_not_done {s : State} {i : SlotId} {p : Part} (hp : p ∈ (s.slot i).parts) (h : p.phase ≠ .done) :
    endReadIfDone i s = s := by
  refine if_neg fun done => h ?_
  simpa using List.all_eq_true.mp done p hp

/-- A part that has issued its whole block's reads (R63, R64). -/
def Part.readingWhole (g : Region) (p : Part) : Part :=
  { p with phase := .reading, mode := some .full, readsOut := g.blockSize / 256 }

theorem Part.issueRead_wholeBlock {g : Region} {p : Part} (ready : p.phase = .ready) (whole : p.needsBlock g = true) :
    p.issueRead g = p.readingWhole g := (if_pos ready).trans (if_pos whole)

/-- A read of one whole-block part issues that block's reads, and does not end (R63, R64). -/
theorem issueReads_wholeBlock {s : State} {i : SlotId} {r : RegionId} {p : Part} (hr : (s.slot i).region = some r)
    (hp : (s.slot i).parts = [p]) (ready : p.phase = .ready) (whole : p.needsBlock (s.region r) = true) :
    issueReads i s = { s with
      tu := { s.tu with slots := vset s.tu.slots i { s.slot i with parts := [p.readingWhole (s.region r)] } }
      ma := { s.ma with workQueue := s.ma.workQueue ++
        (blockReads (s.region r) p.block .work (.part i 0) ⟨some r, some p.block, some (s.slot i).who, none⟩) } } := by
  have updated : s.updSlot i (fun sl => { sl with parts := sl.parts.map (Part.issueRead (s.slotRegion i)) }) =
      s.updSlot i fun sl => { sl with parts := [p.readingWhole (s.region r)] } := by
    simp only [State.updSlot, hp, List.map_cons, List.map_nil, slotRegion_eq hr, Part.issueRead_wholeBlock ready whole]
  have requests : ((s.slot i).indexed.filter (·.1.phase == .ready)).flatMap
      (fun x => readRequests (s.slotRegion i) i (s.slot i) x.2 x.1) =
        blockReads (s.region r) p.block .work (.part i 0) ⟨some r, some p.block, some (s.slot i).who, none⟩ := by
    simp [Slot.indexed, hp, ready, readRequests, slotRegion_eq hr, whole, partKey, hr]
  have ofWork (key : RecordKey) : ∀ q ∈ blockReads (s.region r) p.block .work (.part i 0) key, q.cls = .work := by
    intro q hq
    obtain ⟨k, _, rfl⟩ := List.mem_map.mp hq
    rfl
  unfold issueReads
  rw [requests, updated, appendRequests_work _ _ (ofWork _)]
  refine endReadIfDone_of_not_done (p := p.readingWhole (s.region r)) ?_ nofun
  simp [State.slot, State.updSlot]

theorem proceed_read {s : State} {i : SlotId} (h : (s.slot i).kind = .read) : proceed i s = issueReads i s := by
  unfold proceed
  rw [h]

/-- A lone waiting read of one whole-block part takes the lowest-numbered free buffer and goes on (R53). -/
theorem examineBuffers_lone {s : State} {i : SlotId} {p : Part} {b : Fin 8} (hq : s.obt.bufferWait = [(i, 1)])
    (free : (vget s.obt.buffers b).owner = none) (lowest : ∀ c, c < b → (vget s.obt.buffers c).owner ≠ none)
    {r : RegionId} (hk : (s.slot i).kind = .read) (hr : (s.slot i).region = some r) (hp : (s.slot i).parts = [p])
    (whole : p.needsBlock (s.region r) = true) :
    examineBuffers s.obt.bufferWait.length s =
      issueReads i ((s.withObt { s.obt with bufferWait := [] }).updBuffer b fun x => { x with owner := some (i, 0) }) := by
  obtain ⟨bs, hb⟩ := freeBuffers_cons free lowest
  have assigned : assignBuffers i [0] (s.withObt { s.obt with bufferWait := [] }) = _ :=
    assignBuffer_lowest (s := s.withObt { s.obt with bufferWait := [] }) i 0 free lowest
  rw [hq, List.length_singleton, examineBuffers_served 0 hq (by simp [hb]), bufferNeeds_wholeBlock hk hr hp whole, assigned]
  exact proceed_read hk

/-- Settles O10: a head that cannot be served waits; a lone one is served and issues its block's reads. -/
theorem bufferWaitHeadGetsItsBuffers : Obligations.BufferWaitHeadGetsItsBuffers := by
  refine ⟨fun s hw h => ?_, fun s i r p b hw hq free lowest hk hr hp ready sound guarded => ?_⟩
  · exact congrArg Host.Outcome.next ((congrArg run (examineBuffers_waits _ h)).trans (run_nil s hw))
  · have whole : p.needsBlock (s.region r) = true := by simp [Part.needsBlock, ready, sound, guarded]
    have served := (examineBuffers_lone hq free lowest hk hr hp whole).trans (issueReads_wholeBlock hr hp ready whole)
    refine congrArg Host.Outcome.next ((congrArg run served).trans ((run_nil _ ?_).trans (congrArg endReset ?_)))
    · exact hw
    · rfl

end Sys2Proof.Machine
end

section
/-! PROOFS. An arriving request: when none is accepted, the lookup past each of its steps, the two slots a request can leave behind
(R39, R145, R148, R151), and the part records (R5, R74). -/

namespace Sys2Proof.Machine

/-! ## Arrival (R145, R148) -/

/-- The two requests, and the slot each fills. -/
theorem requestSlot_cases {c : Instr} {sl : Slot} (h : requestSlot c = some sl) :
    (∃ q t a n, c = .readRequest q t a n ∧ sl = Slot.arrived .read q t a n [] []) ∨
      ∃ q t a d e, c = .writeRequest q t a d e ∧ sl = Slot.arrived .write q t a d.length d e := by
  cases c with
  | readRequest q t a n => cases h; exact .inl ⟨q, t, a, n, rfl, rfl⟩
  | writeRequest q t a d e => cases h; exact .inr ⟨q, t, a, d, e, rfl, rfl⟩
  | _ => cases h

theorem exec_request {c : Instr} {sl : Slot} (h : requestSlot c = some sl) (s : State) : exec c s = .next (arrive sl s) := by
  obtain ⟨q, t, a, n, rfl, rfl⟩ | ⟨q, t, a, d, e, rfl, rfl⟩ := requestSlot_cases h <;> rfl

theorem arrive_of_reset {s : State} (sl : Slot) (h : s.pins.porst = true ∨ s.pins.frst = true) : arrive sl s = s :=
  if_pos (by simpa using h)

theorem arrive_of_full {s : State} (sl : Slot) (h : ∀ j, (s.slot j).state ≠ .free) : arrive sl s = s := by
  have none : freeSlotOf s = none := List.find?_eq_none.mpr fun j _ => by simpa using h j
  unfold arrive
  rw [none]
  split <;> rfl

/-- An accepted request takes the lowest-numbered FREE slot. -/
theorem arrive_of_accepts {s : State} {i : SlotId} (sl : Slot) (h : s.accepts i) : arrive sl s = acceptRequest i sl s := by
  obtain ⟨porst, frst, free, lowest⟩ := h
  have found : freeSlotOf s = some i := find_finRange (by simp [free]) fun j hj => by simpa using lowest j hj
  unfold arrive
  rw [found, if_neg (by simp [porst, frst])]

/-! ## The lookup past each step (R149, R9) -/

theorem SlotState.comparable_iff (x : SlotState) :
    x.comparable = true ↔ x = .admitting ∨ x = .active ∨ x = .passing ∨ x = .responding := by
  cases x <;> simp [SlotState.comparable]

theorem duplicateId_iff (s : State) (q : RequesterId) (t : TransactionId) :
    duplicateId s q t = true ↔ ∃ j, ((s.slot j).state = .admitting ∨ (s.slot j).state = .active ∨ (s.slot j).state = .passing ∨
      (s.slot j).state = .responding) ∧ (s.slot j).requester = q ∧ (s.slot j).tid = t := by
  have slots : (∃ x ∈ s.tu.slots.toList, (x.state.comparable && x.requester == q && x.tid == t) = true) ↔
      ∃ j, ((s.slot j).state.comparable && (s.slot j).requester == q && (s.slot j).tid == t) = true := by
    constructor
    · rintro ⟨x, hx, h⟩
      obtain ⟨k, hk, rfl⟩ := Vector.mem_iff_getElem.mp (Vector.mem_toList_iff.mp hx)
      exact ⟨⟨k, hk⟩, h⟩
    · rintro ⟨j, h⟩
      exact ⟨s.slot j, Vector.mem_toList_iff.mpr (Vector.getElem_mem j.isLt), h⟩
  rw [duplicateId, List.any_eq_true, slots]
  simp only [Bool.and_eq_true, SlotState.comparable_iff, beq_iff_eq, and_assoc]

theorem malformed_iff (s : State) (sl : Slot) : malformed s sl = true ↔ s.isMalformed sl := by
  have enables : (!sl.enables.any id) = true ↔ ∀ e ∈ sl.enables, e = false := by simp
  simp only [malformed, Bool.or_eq_true, Bool.and_eq_true, enables, duplicateId_iff, beq_iff_eq, bne_iff_ne, decide_eq_true_eq,
    or_assoc, State.isMalformed]

theorem tagAreaTouched_iff (s : State) (sl : Slot) (r : RegionId) :
    (s.region r).tagAreaTouched sl.address.toNat sl.length = true ↔ s.touchesTags sl r := by
  simp only [Region.tagAreaTouched, overlaps, Bool.and_eq_true, Region.isDefined_iff, decide_eq_true_eq, State.touchesTags]

theorem covers_iff (s : State) (a : Nat) (r : RegionId) : (s.region r).covers a = true ↔ s.inRange a r := by
  simp only [Region.covers, Bool.and_eq_true, Region.isDefined_iff, decide_eq_true_eq, and_assoc, State.inRange]

theorem tagAreaAt_none {s : State} {sl : Slot} (h : ∀ q, ¬ s.touchesTags sl q) : s.tagAreaAt sl.address.toNat sl.length = none := by
  have none : (allRegions.filter fun r => (s.region r).tagAreaTouched sl.address.toNat sl.length) = [] :=
    List.filter_eq_nil_iff.mpr fun r _ => mt (tagAreaTouched_iff s sl r).mp (h r)
  unfold State.tagAreaAt
  rw [none]
  rfl

theorem regionAt_none {s : State} {a : Nat} (h : ∀ q, ¬ s.inRange a q) : s.regionAt a = none :=
  List.find?_eq_none.mpr fun q _ => mt (covers_iff s a q).mp (h q)

theorem regionAt_some {s : State} {a : Nat} {r : RegionId} (h : s.inRange a r) (only : ∀ q, s.inRange a q → q = r) :
    s.regionAt a = some r := by
  obtain ⟨q, hq⟩ : ∃ q, s.regionAt a = some q :=
    Option.isSome_iff_exists.mp (List.find?_isSome.mpr ⟨r, List.mem_finRange r, (covers_iff s a r).mpr h⟩)
  rw [hq, only q ((covers_iff s a q).mp (List.find?_some (p := fun q => (s.region q).covers a) hq))]

theorem Permission.allows_iff (p : Permission) (k : Kind) : p.allows k = true ↔ ¬ p.deniesKind k := by
  cases p <;> cases k <;> simp [Permission.allows, Permission.deniesKind]

/-- A request that gets past every step is protected work. -/
theorem classify_protected {s : State} {sl : Slot} {r : RegionId} {p : Fin 8} (h : s.reaches sl r) (hp : s.partitionOf sl = some p)
    (allowed : ¬ (vget (s.region r).permissions p).deniesKind sl.kind) (admits : ¬ (s.region r).refuses sl.kind = true) :
    classify s sl = ⟨.protectedWork, some r, none, none⟩ := by
  obtain ⟨formed, noTags, inRange, only⟩ := h
  unfold State.partitionOf at hp
  unfold classify lookupRegion lookupInRegion
  rw [if_neg (mt (malformed_iff s sl).mp formed), tagAreaAt_none noTags, regionAt_some inRange only]
  dsimp only
  rw [hp]
  dsimp only
  rw [if_neg (by simpa using (Permission.allows_iff _ _).mpr allowed), if_neg admits]

/-- A request that reaches no region is passed through where the policy is to pass. -/
theorem classify_passThrough {s : State} {sl : Slot} (formed : ¬ s.isMalformed sl) (noTags : ∀ q, ¬ s.touchesTags sl q)
    (noRange : ∀ q, ¬ s.inRange sl.address.toNat q) (pass : s.ru.unmapped = .pass) :
    classify s sl = ⟨.passThrough, none, none, none⟩ := by
  unfold classify lookupRegion
  rw [if_neg (mt (malformed_iff s sl).mp formed), tagAreaAt_none noTags, regionAt_none noRange]
  dsimp only
  rw [pass]

/-! ## The slot an accepted request leaves behind (R39, R151) -/

@[simp] theorem vset_vset {α : Type} {n : Nat} (v : Vector α n) (i : Fin n) (x y : α) : vset (vset v i x) i y = vset v i y := by
  simp [vset]

theorem updSlot_updSlot (s : State) (i : SlotId) (f g : Slot → Slot) : (s.updSlot i f).updSlot i g = s.updSlot i (g ∘ f) := by
  show { s with tu := _ } = { s with tu := _ }
  rw [updSlot_slot_same]
  simp only [State.updSlot, withTu_tu, vset_vset, Function.comp]

theorem acceptRequest_protected {s : State} {i : SlotId} {sl : Slot} {r : RegionId}
    (h : classify s sl = ⟨.protectedWork, some r, none, none⟩) :
    acceptRequest i sl s = { s with
      tu := { s.tu with slots := vset s.tu.slots i { sl with
        state := .admitting, cls := some .protectedWork, region := some r
        firstBlock := (s.region r).blockOf sl.address.toNat
        blockSpan := (s.region r).spanOf sl.address.toNat sl.length
        parts := partsOf (s.region r) sl.address.toNat sl.length sl.enables } }
      obt := { s.obt with admission := s.obt.admission ++ [i] } } := by
  unfold acceptRequest
  rw [h]
  show enqueue i r _ = _
  unfold enqueue
  rw [updSlot_updSlot]
  rfl

theorem passRequest_cls (i : SlotId) (sl : Slot) : (passRequest i sl).cls = .work := by
  unfold passRequest
  split <;> rfl

theorem acceptRequest_passThrough {s : State} {i : SlotId} {sl : Slot} (h : classify s sl = ⟨.passThrough, none, none, none⟩)
    (noRegion : sl.region = none) :
    acceptRequest i sl s = { s with
      tu := { s.tu with slots := vset s.tu.slots i { sl with state := .passing, cls := some .passThrough } }
      ma := { s.ma with workQueue := s.ma.workQueue ++ [passRequest i sl] } } := by
  have keeps : { sl with cls := some .passThrough, region := none } = { sl with cls := some .passThrough } := by rw [← noRegion]
  unfold acceptRequest
  rw [h]
  show appendRequest (passRequest i (State.slot _ i)) (State.updSlot _ i _) = _
  rw [keeps, updSlot_slot_same, updSlot_updSlot]
  exact appendRequests_work [passRequest i sl] _ (by simp [passRequest_cls])

/-- The one request a pass-through slot sends is the upstream one unchanged (R151). -/
theorem passRequest_eq {c : Instr} {sl : Slot} (h : requestSlot c = some sl) (i : SlotId) :
    passRequest i sl =
      { kind := (match sl.kind with | .read => .dataRead | .write => .dataWrite), cls := .work
        address := sl.address.toNat, length := sl.length, data := sl.data, enables := sl.enables
        issuer := .passThrough i, key := ⟨none, none, some (sl.requester, sl.tid), none⟩, inReset := false } := by
  obtain ⟨q, t, a, n, rfl, rfl⟩ | ⟨q, t, a, d, e, rfl, rfl⟩ := requestSlot_cases h <;> rfl

theorem requestSlot_region {c : Instr} {sl : Slot} (h : requestSlot c = some sl) : sl.region = none := by
  obtain ⟨q, t, a, n, rfl, rfl⟩ | ⟨q, t, a, d, e, rfl, rfl⟩ := requestSlot_cases h <;> rfl

/-! ## The part records (R5, R74) -/

section
variable {g : Region} {a n : Nat}

theorem spanOf_eq (base : g.base ≤ a) (pos : 1 ≤ n) :
    g.spanOf a n = (a - g.base + (n - 1)) / g.blockSize - (a - g.base) / g.blockSize + 1 := by
  have shift : a + n - 1 - g.base = a - g.base + (n - 1) := by omega
  rw [Region.spanOf, Region.blockOf, Region.blockOf, shift]

/-- At most 256 bytes touch one block, or two neighbours. -/
theorem spanOf_one_or_two (base : g.base ≤ a) (pos : 1 ≤ n) (len : n ≤ 256) (size : 512 ≤ g.blockSize) :
    g.spanOf a n = 1 ∨ g.spanOf a n = 2 := by
  have upper : (a - g.base + (n - 1)) / g.blockSize ≤ (a - g.base) / g.blockSize + 1 := by
    rw [← Nat.add_div_right _ (by omega : 0 < g.blockSize)]
    exact Nat.div_le_div_right (by omega)
  rw [spanOf_eq base pos]
  omega

/-- Two blocks are touched only by bytes past the end of the first. -/
theorem count_lt_of_spanOf_two (base : g.base ≤ a) (pos : 1 ≤ n) (size : 512 ≤ g.blockSize) (two : g.spanOf a n = 2) :
    g.blockSize - (a - g.base) % g.blockSize < n := by
  refine Nat.lt_of_not_le fun inside => ?_
  have div_mod := Nat.div_add_mod (a - g.base) g.blockSize
  have same : (a - g.base + (n - 1)) / g.blockSize ≤ (a - g.base) / g.blockSize := by
    refine Nat.le_of_lt_succ ((Nat.div_lt_iff_lt_mul (by omega)).mpr ?_)
    rw [Nat.succ_mul, Nat.mul_comm]
    have := Nat.mod_lt (a - g.base) (by omega : 0 < g.blockSize)
    omega
  rw [spanOf_eq base pos] at two
  omega

theorem partsOf_one (en : List Bool) (one : g.spanOf a n = 1) :
    partsOf g a n en = [Part.initial (g.blockOf a) (g.offsetOf a) n 0 en] := if_pos one

theorem partsOf_two (en : List Bool) (two : g.spanOf a n = 2) :
    partsOf g a n en =
      [Part.initial (g.blockOf a) (g.offsetOf a) (g.blockSize - g.offsetOf a) 0 en,
       Part.initial (g.blockOf a + 1) 0 (n - (g.blockSize - g.offsetOf a)) (g.blockSize - g.offsetOf a) en] :=
  if_neg (by rw [two]; decide)

/-- Every part record begins with the Initial columns. -/
theorem partsOf_initial {en : List Bool} {p : Part} (h : p ∈ partsOf g a n en) :
    ∃ block offset count start, p = Part.initial block offset count start en := by
  unfold partsOf at h
  split at h
  · exact ⟨_, _, _, _, List.mem_singleton.mp h⟩
  · rcases List.mem_cons.mp h with h | h
    · exact ⟨_, _, _, _, h⟩
    · exact ⟨_, _, _, _, List.mem_singleton.mp h⟩
end

/-- The first of an ascending list is the least. -/
theorem head_le {k x : Nat} {ks : List Nat} (sorted : (k :: ks).Pairwise (· ≤ ·)) (hx : x ∈ k :: ks) : k ≤ x := by
  rcases List.mem_cons.mp hx with rfl | hx
  · exact Nat.le_refl _
  · exact (List.pairwise_cons.mp sorted).1 x hx

/-- The last of an ascending list is the greatest. -/
theorem le_getLastD {k x : Nat} {ks : List Nat} (sorted : (k :: ks).Pairwise (· ≤ ·)) (hx : x ∈ k :: ks) :
    x ≤ ks.getLastD k := by
  induction ks generalizing k x with
  | nil => exact Nat.le_of_eq (List.mem_singleton.mp hx)
  | cons b ks ih =>
    obtain ⟨least, rest⟩ := List.pairwise_cons.mp sorted
    rw [List.getLastD_cons]
    rcases List.mem_cons.mp hx with rfl | hx
    · exact Nat.le_trans (least b List.mem_cons_self) (ih rest List.mem_cons_self)
    · exact ih rest hx

/-- The enabled places of a part, ascending. -/
def enabledPlaces (en : List Bool) (start count : Nat) : List Nat := (List.range count).filter fun k => en.getD (start + k) false

theorem mem_enabledPlaces {en : List Bool} {start count k : Nat} :
    k ∈ enabledPlaces en start count ↔ k < count ∧ en.getD (start + k) false = true := by
  rw [enabledPlaces, List.mem_filter, List.mem_range]

theorem enabledPlaces_sorted (en : List Bool) (start count : Nat) : (enabledPlaces en start count).Pairwise (· ≤ ·) :=
  (List.pairwise_lt_range.imp Nat.le_of_lt).filter _

theorem enabledSpan_eq_none_iff (en : List Bool) (offset start count : Nat) :
    enabledSpan en offset start count = none ↔ ∀ k, k < count → en.getD (start + k) false = false := by
  have empty : enabledSpan en offset start count = none ↔ enabledPlaces en start count = [] := by
    unfold enabledSpan enabledPlaces
    split
    · next h => exact iff_of_true rfl h
    · next k ks h => exact iff_of_false nofun (by rw [h]; nofun)
  simp only [empty, List.eq_nil_iff_forall_not_mem, mem_enabledPlaces, not_and, Bool.not_eq_true]

/-- The enabled span runs from the lowest enabled place to the highest (R74). -/
theorem enabledSpan_eq_some {en : List Bool} {offset start count lo hi : Nat}
    (h : enabledSpan en offset start count = some (lo, hi)) :
    (∃ k, k < count ∧ lo = offset + k ∧ en.getD (start + k) false = true) ∧
    (∃ k, k < count ∧ hi = offset + k ∧ en.getD (start + k) false = true) ∧
    ∀ k, k < count → en.getD (start + k) false = true → lo ≤ offset + k ∧ offset + k ≤ hi := by
  obtain ⟨k, ks, places, rfl, rfl⟩ : ∃ k ks, enabledPlaces en start count = k :: ks ∧ lo = offset + k ∧
      hi = offset + ks.getLastD k := by
    unfold enabledSpan at h
    split at h
    · cases h
    · next k ks hk => cases h; exact ⟨k, ks, hk, rfl, rfl⟩
  have sorted := places ▸ enabledPlaces_sorted en start count
  have member {x : Nat} (hx : x ∈ k :: ks) : x < count ∧ en.getD (start + x) false = true :=
    mem_enabledPlaces.mp (places ▸ hx)
  obtain ⟨lt_first, on_first⟩ := member List.mem_cons_self
  obtain ⟨lt_last, on_last⟩ := member List.getLastD_mem_cons
  refine ⟨⟨k, lt_first, rfl, on_first⟩, ⟨_, lt_last, rfl, on_last⟩, fun x hx on => ?_⟩
  have hmem : x ∈ k :: ks := places ▸ mem_enabledPlaces.mpr ⟨hx, on⟩
  exact ⟨Nat.add_le_add_left (head_le sorted hmem) _, Nat.add_le_add_left (le_getLastD sorted hmem) _⟩

/-- Settles O12: a request not accepted changes nothing; an accepted one is queued or passed through by its class; the parts. -/
theorem requestQueuedOrPassedThrough : Obligations.RequestQueuedOrPassedThrough := by
  refine ⟨fun c sl s hc h => ?_, fun c sl s i hc acc => ⟨fun r p hr hp allowed admits unfenced => ?_, ?_⟩,
    fun g a n en base pos len size => ⟨rfl, rfl, spanOf_one_or_two base pos len size, fun one => ?_, fun two => ⟨?_, ?_⟩, ?_⟩⟩
  · rw [exec_request hc]
    obtain h | h | h := h
    · rw [arrive_of_reset sl (.inl h)]
    · rw [arrive_of_reset sl (.inr h)]
    · rw [arrive_of_full sl h]
  · rw [exec_request hc, arrive_of_accepts sl acc,
      acceptRequest_protected (classify_protected hr hp allowed (Region.not_refuses admits unfenced))]
  · intro formed noTags noRange pass
    have passed := acceptRequest_passThrough (i := i) (classify_passThrough formed noTags noRange pass) (requestSlot_region hc)
    rw [passRequest_eq hc] at passed
    rw [exec_request hc, arrive_of_accepts sl acc]
    exact congrArg Host.Outcome.next passed
  · rw [partsOf_one en one]
    rfl
  · rw [partsOf_two en two]
    rfl
  · exact count_lt_of_spanOf_two base pos size two
  · intro p hp
    obtain ⟨block, offset, count, start, rfl⟩ := partsOf_initial hp
    exact ⟨rfl, rfl, rfl, rfl, rfl, rfl, rfl, rfl, rfl, rfl, rfl, rfl, rfl, enabledSpan_eq_none_iff .., fun _ _ => enabledSpan_eq_some⟩

end Sys2Proof.Machine
end

section
/-! PROOFS. The Tag Cache's write-backs (chapter 6): one line's, those a flush request demands, those the high-water rule makes,
the retry timer's expiry, and FLUSH (R103, R105, R107 to R109). -/

namespace Sys2Proof.Machine

/-! ## The write-back of one line (R103, R108) -/

theorem issueWriteback_eq {s : State} {l : LineId} {r : RegionId} {line : Nat} (h : (s.line l).key = some (r, line)) :
    issueWriteback l s = { s with
      tc := { s.tc with lines := vset s.tc.lines l { s.line l with state := .cleaning, redirty := false, throughFault := false } }
      ma := { s.ma with tagQueue := s.ma.tagQueue ++ [writebackRequest s l r line] } } := by
  unfold issueWriteback
  rw [h]
  rfl

/-- The write-back of a line changed just before, its key and its tags kept. -/
theorem issueWriteback_updLine {s : State} {l : LineId} {r : RegionId} {line : Nat} {f : Line → Line}
    (key : (f (s.line l)).key = some (r, line)) (tags : (f (s.line l)).tags = (s.line l).tags) :
    issueWriteback l (s.updLine l f) = { s with
      tc := { s.tc with
        lines := vset s.tc.lines l { f (s.line l) with state := .cleaning, redirty := false, throughFault := false } }
      ma := { s.ma with tagQueue := s.ma.tagQueue ++ [writebackRequest s l r line] } } := by
  have request : writebackRequest (s.updLine l f) l r line = writebackRequest s l r line := by
    unfold writebackRequest
    rw [updLine_line_same, tags]
    rfl
  rw [issueWriteback_eq (by rw [updLine_line_same, key]), request, updLine_line_same]
  simp only [State.updLine, withTc_tc, vset_vset]
  rfl

theorem Line.eligible_iff (x : Line) : x.eligible = true ↔ x.state = .dirty ∧ x.retryTimer = none ∧ x.through = 0 := by
  simp [Line.eligible, and_assoc]

theorem Line.unpinned_iff (x : Line) : x.unpinned = true ↔ x.pinners = [] := List.isEmpty_iff

theorem TagCache.listed_iff (t : TagCache) (k : RegionId × Nat) :
    t.listed (some k) = true ↔ ∃ f ∈ t.flushes, k ∈ f.keys := by
  simp [TagCache.listed]

section
variable {s : State} {l : LineId} {k : RegionId × Nat}

theorem demandWriteback_of_demanded (hk : (s.line l).key = some k) (eligible : (s.line l).eligible = true)
    (listed : ∃ f ∈ s.tc.flushes, k ∈ f.keys) : demandWriteback l s = issueWriteback l s :=
  if_pos (by rw [eligible, hk, (s.tc.listed_iff k).mpr listed]; rfl)

theorem demandWriteback_of_not_listed (hk : (s.line l).key = some k) (h : ∀ f ∈ s.tc.flushes, k ∉ f.keys) :
    demandWriteback l s = s := by
  refine if_neg fun demanded => ?_
  obtain ⟨f, hf, listed⟩ := (s.tc.listed_iff k).mp (hk ▸ (Bool.and_eq_true_iff.mp demanded).2)
  exact h f hf listed

theorem demandWriteback_of_not_eligible (h : ¬ (s.line l).eligible = true) : demandWriteback l s = s :=
  if_neg fun demanded => h (Bool.and_eq_true_iff.mp demanded).1
end

/-! ## The high-water rule (R107) -/

theorem highWater_of_dirtyCount_le {s : State} (h : s.tc.dirtyCount ≤ 24) : highWater s = s := by
  have none : s.tc.dirtyCount - Config.dirtyHighWater = 0 := Nat.sub_eq_zero_of_le h
  unfold highWater
  rw [none]
  rfl

/-- A write-back leaves every other line, and so every other line's write-back, as it was. -/
theorem issueWriteback_other {s : State} {l m : LineId} (h : m ≠ l) :
    (issueWriteback l s).line m = s.line m ∧
      ∀ r line, writebackRequest (issueWriteback l s) m r line = writebackRequest s m r line := by
  have lines : (issueWriteback l s).line m = s.line m := by
    unfold issueWriteback
    split
    · rfl
    · next r line _ =>
      exact (updLine_line s l m fun x => { x with state := .cleaning, redirty := false, throughFault := false }).trans
        (if_neg h.symm)
  have regions : (issueWriteback l s).ru = s.ru := by
    unfold issueWriteback
    split <;> rfl
  refine ⟨lines, fun r line => ?_⟩
  unfold writebackRequest State.region
  rw [lines, regions]

@[simp] theorem vget_ofFn {α : Type} {n : Nat} (f : Fin n → α) (i : Fin n) : vget (Vector.ofFn f) i = f i := by simp [vget]

/-- The write-backs of several lines: each of them is CLEANING, and their requests join the TAG class in order. -/
theorem foldl_issueWriteback {ls : List LineId} {s : State} (nodup : ls.Nodup)
    (keyed : ∀ l ∈ ls, (s.line l).key.isSome = true) :
    ls.foldl (fun s l => issueWriteback l s) s = { s with
      tc := { s.tc with lines := Vector.ofFn fun l =>
        if l ∈ ls then { s.line l with state := .cleaning, redirty := false, throughFault := false } else s.line l }
      ma := { s.ma with
        tagQueue := s.ma.tagQueue ++ ls.filterMap fun l => (s.line l).key.map fun k => writebackRequest s l k.1 k.2 } } := by
  induction ls generalizing s with
  | nil =>
    have lines : (Vector.ofFn fun l => s.line l) = s.tc.lines := vector_ext_vget (vget_ofFn _)
    simp [lines]
  | cons l ls ih =>
    obtain ⟨fresh, nodup⟩ := List.nodup_cons.mp nodup
    obtain ⟨⟨r, line⟩, hk⟩ := Option.isSome_iff_exists.mp (keyed l List.mem_cons_self)
    have other (m : LineId) (hm : m ∈ ls) := issueWriteback_other (s := s) (l := l) (ne_of_mem_of_not_mem hm fresh)
    have requests : (ls.filterMap fun m => ((issueWriteback l s).line m).key.map fun k =>
        writebackRequest (issueWriteback l s) m k.1 k.2) =
          ls.filterMap fun m => (s.line m).key.map fun k => writebackRequest s m k.1 k.2 := by
      have each : (ls.map fun m => ((issueWriteback l s).line m).key.map fun k =>
          writebackRequest (issueWriteback l s) m k.1 k.2) =
            ls.map fun m => (s.line m).key.map fun k => writebackRequest s m k.1 k.2 :=
        List.map_congr_left fun m hm => by rw [(other m hm).1]; simp only [(other m hm).2]
      have collected := congrArg (List.filterMap id) each
      rw [List.filterMap_map, List.filterMap_map] at collected
      exact collected
    have lines : (Vector.ofFn fun m => if m ∈ ls then
          { (issueWriteback l s).line m with state := .cleaning, redirty := false, throughFault := false }
        else (issueWriteback l s).line m) = Vector.ofFn fun m => if m ∈ l :: ls then
          { s.line m with state := .cleaning, redirty := false, throughFault := false } else s.line m := by
      refine congrArg Vector.ofFn (funext fun m => ?_)
      by_cases h : m = l
      · subst h
        rw [if_neg fresh, if_pos List.mem_cons_self, issueWriteback_eq hk]
        exact vget_vset_same ..
      · rw [(issueWriteback_other h).1]
        simp [h]
    rw [List.foldl_cons, ih nodup fun m hm => by rw [(other m hm).1]; exact keyed m (List.mem_cons_of_mem _ hm), requests, lines,
      List.filterMap_cons, hk, issueWriteback_eq hk]
    simp

/-- The lines the rule writes back: eligible and unpinned, oldest first, one for each DIRTY line above 24. -/
theorem highWater_eq {s : State} {ls : List LineId} (nodup : s.tc.lru.Nodup)
    (hls : ls = (s.tc.oldestFirst fun x => x.eligible && x.unpinned).take (s.tc.dirtyCount - 24))
    (keyed : ∀ l ∈ ls, (s.line l).key.isSome = true) :
    highWater s = { s with
      tc := { s.tc with lines := Vector.ofFn fun l =>
        if l ∈ ls then { s.line l with state := .cleaning, redirty := false, throughFault := false } else s.line l }
      ma := { s.ma with
        tagQueue := s.ma.tagQueue ++ ls.filterMap fun l => (s.line l).key.map fun k => writebackRequest s l k.1 k.2 } } := by
  subst hls
  exact foldl_issueWriteback (((List.pairwise_reverse.mpr (nodup.imp Ne.symm)).filter _).take) keyed

/-! ## The retry timer (R105) -/

theorem exec_retryTimerExpiry_stopped {s : State} {l : LineId} (h : (s.line l).retryTimer = none) :
    exec (.retryTimerExpiry l) s = .next s :=
  congrArg Host.Outcome.next (if_neg (by simp [h]))

theorem exec_retryTimerExpiry_running {s : State} {l : LineId} {n : Nat} (h : (s.line l).retryTimer = some n) :
    exec (.retryTimerExpiry l) s =
      .next (highWater (demandWriteback l (s.updLine l fun x => { x with retryTimer := none }))) :=
  congrArg Host.Outcome.next (if_pos (by simp [h]))

/-- Settles O15: the expiry by the cause that demands the write-back, the rule by the fold over the lines it writes back. -/
theorem retryExpiryAndHighWaterRule : Obligations.RetryExpiryAndHighWaterRule := by
  refine ⟨fun s l => ⟨exec_retryTimerExpiry_stopped, fun n r line hn hk => ?_⟩, fun s => highWater_of_dirtyCount_le,
    fun s ls nodup hls keyed => highWater_eq nodup hls keyed⟩
  rw [exec_retryTimerExpiry_running hn]
  obtain ⟨u, hu⟩ : ∃ u, u = s.updLine l fun x => { x with retryTimer := none } := ⟨_, rfl⟩
  have same : u.line l = { s.line l with retryTimer := none } := hu ▸ updLine_line_same ..
  have key : (u.line l).key = some (r, line) := by rw [same, hk]
  have eligible_iff : (u.line l).eligible = true ↔ (s.line l).state = .dirty ∧ (s.line l).through = 0 := by
    simp [same, Line.eligible_iff]
  rw [← hu]
  refine ⟨fun undemanded => ?_, fun listed dirty through => ?_⟩
  · have idle : demandWriteback l u = u := by
      obtain unlisted | ineligible := undemanded
      · exact demandWriteback_of_not_listed key (hu ▸ unlisted)
      · refine demandWriteback_of_not_eligible fun eligible => ?_
        obtain ⟨dirty, through⟩ := eligible_iff.mp eligible
        exact ineligible.elim (· dirty) (· through)
    rw [idle, hu]
    rfl
  · rw [demandWriteback_of_demanded key (eligible_iff.mpr ⟨dirty, through⟩) (hu ▸ listed), hu,
      issueWriteback_updLine hk rfl]
    rfl

/-! ## FLUSH (R108, R109) -/

theorem scopeCode_region (r : RegionId) : scopeCode r.val = some (some r) := by
  have named : r.val ≠ 255 := by omega
  simp [scopeCode, named, index?]

theorem scopeCode_none {n : Nat} (noRegion : 16 ≤ n) (notAll : n ≠ 255) : scopeCode n = none := by
  simp [scopeCode, notAll, index?, Nat.not_lt.mpr noRegion]

theorem exec_flush_scope {s : State} (h : s.takesCommand) {scope : Option RegionId} (hs : scopeCode (s.param 0 1) = some scope) :
    exec .flush s = .next (makeFlush .command scope (s.started 0x13 .flush)) := by
  rw [exec_flush s h]
  unfold cmdFlush
  rw [field_param, hs]
  rfl

theorem exec_flush_refused {s : State} (h : s.takesCommand) (hs : scopeCode (s.param 0 1) = none) :
    exec .flush s = .next (s.ended .refusedParam) := by
  rw [exec_flush s h]
  unfold cmdFlush
  rw [field_param, hs]
  rfl

/-- A flush request with nothing to write reports at once. -/
theorem makeFlush_nil {m : FlushMaker} {scope : Option RegionId} {s : State} (h : s.tc.flushable scope = []) :
    makeFlush m scope s = flushReport m 0 s := if_pos (by rw [h]; rfl)

/-- A flush request lists its lines and demands the write-back of each. -/
theorem makeFlush_cons {m : FlushMaker} {scope : Option RegionId} {s : State} (h : s.tc.flushable scope ≠ []) :
    makeFlush m scope s = (s.tc.flushable scope).foldl (fun u l => demandWriteback l u) { s with tc := { s.tc with
      flushes := s.tc.flushes ++ [⟨m, scope, (s.tc.flushable scope).filterMap fun l => (s.line l).key, 0⟩] } } :=
  if_neg (by simpa using h)

theorem flushable_eq (s : State) (scope : Option RegionId) :
    s.tc.flushable scope = allLines.filter fun l =>
      ((s.line l).state == .dirty || (s.line l).state == .cleaning || (s.line l).state == .stranded) &&
        (s.line l).key.any fun k => scope.all (· == k.1) := rfl

/-- Settles O16: one line's write-back by whether it is demanded, and FLUSH by its scope and the lines in it. -/
theorem flushWritesBackItsScope : Obligations.FlushWritesBackItsScope := by
  refine ⟨fun s l r line hk => ⟨?_, fun h => ?_⟩,
    fun s hs => ⟨fun noRegion notAll => ?_, fun scope hscope ls hls => ?_⟩⟩
  · rintro ⟨listed, eligible⟩
    rw [demandWriteback_of_demanded hk ((Line.eligible_iff _).mpr eligible) listed, issueWriteback_eq hk]
    rfl
  · obtain unlisted | ineligible := h
    · exact demandWriteback_of_not_listed hk unlisted
    · refine demandWriteback_of_not_eligible fun eligible => ?_
      obtain ⟨dirty, stopped, through⟩ := (Line.eligible_iff _).mp eligible
      obtain h | h | h := ineligible
      · exact h dirty
      · exact h stopped
      · exact h through
  · exact exec_flush_refused hs (scopeCode_none noRegion notAll)
  · have code : scopeCode (s.param 0 1) = some scope := by
      rw [hscope]
      cases scope with
      | none => rfl
      | some r => exact scopeCode_region r
    obtain rfl : s.tc.flushable scope = ls := by
      rw [hls, flushable_eq]
      refine List.filter_congr fun l _ => congrArg _ ?_
      cases (s.line l).key <;> rfl
    rw [exec_flush_scope hs code]
    exact ⟨fun h => congrArg Host.Outcome.next (makeFlush_nil h), fun h => congrArg Host.Outcome.next (makeFlush_cons h)⟩

end Sys2Proof.Machine
end

section
/-! PROOFS. The Tag Cache's allocation queue, lookups and pins (chapter 6): the line a head takes, the line reserved for one that
waits, a lookup's answer, and the pins an operation drops (R96 to R98, R106). -/

namespace Sys2Proof.Machine

/-! ## The line the allocation head takes (R98) -/

/-- The highest-ranked line that meets a condition, none older meeting it. -/
theorem oldestFirst_head {t : TagCache} {p : Line → Bool} {newer older : List LineId} {l : LineId}
    (h : t.lru = newer ++ l :: older) (meets : p (vget t.lines l) = true)
    (oldest : ∀ m ∈ older, ¬ p (vget t.lines m) = true) :
    (t.oldestFirst p).head? = some l := by
  have none : older.reverse.filter (fun m => p (vget t.lines m)) = [] :=
    List.filter_eq_nil_iff.mpr fun m hm => oldest m (List.mem_reverse.mp hm)
  simp [TagCache.oldestFirst, h, List.filter_append, none, List.filter_cons_of_pos, meets]

theorem oldestFirst_head_none {t : TagCache} {p : Line → Bool} (h : ∀ m, ¬ p (vget t.lines m) = true) :
    (t.oldestFirst p).head? = none := by
  rw [List.head?_eq_none_iff]
  exact List.filter_eq_nil_iff.mpr fun m _ => h m

/-- A CLEAN line without pins, which a head may take. -/
def Line.free (x : Line) : Prop := x.state = .clean ∧ x.pinners = []

theorem Line.free_iff (x : Line) : (x.state == .clean && x.unpinned) = true ↔ x.free := by
  rw [Bool.and_eq_true, beq_iff_eq, Line.unpinned_iff, Line.free]

section
variable {s : State} {l : LineId}

theorem takeable_of_invalid (invalid : (s.line l).state = .invalid) (lowest : ∀ m, m < l → (s.line m).state ≠ .invalid) :
    s.tc.takeable = some l := by
  have found : allLines.find? (fun m => (vget s.tc.lines m).state == .invalid) = some l :=
    find_finRange (beq_iff_eq.mpr invalid) fun m hm => beq_eq_false_iff_ne.mpr (lowest m hm)
  unfold TagCache.takeable
  rw [found, Option.some_or, Option.some_or]

/-- No line INVALID: the reserved line is taken, or the least recently used one that can be. -/
theorem takeable_of_no_invalid (h : ∀ m, (s.line m).state ≠ .invalid) :
    s.tc.takeable = (allLines.find? fun m => (s.line m).reserved && (s.line m).state == .clean && (s.line m).unpinned).or
      (s.tc.oldestFirst fun x => x.state == .clean && x.unpinned).head? := by
  have none : allLines.find? (fun m => (vget s.tc.lines m).state == .invalid) = none :=
    List.find?_eq_none.mpr fun m _ => mt beq_iff_eq.mp (h m)
  unfold TagCache.takeable
  rw [none, Option.none_or]
  rfl

theorem takeable_of_reserved (h : ∀ m, (s.line m).state ≠ .invalid) (reserved : (s.line l).reserved = true)
    (free : (s.line l).free) (only : ∀ m, (s.line m).reserved = true → m = l) : s.tc.takeable = some l := by
  have found : allLines.find? (fun m => (s.line m).reserved && (s.line m).state == .clean && (s.line m).unpinned) = some l := by
    refine find_finRange (by simp [reserved, free.1, Line.unpinned, free.2]) fun m hm => ?_
    have other : (s.line m).reserved = false := Bool.eq_false_iff.mpr fun r => (Fin.ne_of_lt hm) (only m r)
    rw [other]
    rfl
  rw [takeable_of_no_invalid h, found, Option.some_or]

/-- Neither an INVALID line nor a reserved one to take. -/
theorem takeable_of_no_reserved (h : ∀ m, (s.line m).state ≠ .invalid)
    (none : ∀ m, (s.line m).reserved = true → ¬ (s.line m).free) :
    s.tc.takeable = (s.tc.oldestFirst fun x => x.state == .clean && x.unpinned).head? := by
  have notFound : allLines.find? (fun m => (s.line m).reserved && (s.line m).state == .clean && (s.line m).unpinned) = .none := by
    refine List.find?_eq_none.mpr fun m _ => ?_
    rw [Bool.and_assoc, Bool.and_eq_true, Line.free_iff]
    exact fun ⟨reserved, free⟩ => none m reserved free
  rw [takeable_of_no_invalid h, notFound, Option.none_or]

theorem takeable_of_lru (h : ∀ m, (s.line m).state ≠ .invalid)
    (none : ∀ m, (s.line m).reserved = true → ¬ (s.line m).free)
    (free : (s.line l).free) {newer older : List LineId} (lru : s.tc.lru = newer ++ l :: older)
    (oldest : ∀ m ∈ older, ¬ (s.line m).free) : s.tc.takeable = some l := by
  rw [takeable_of_no_reserved h none]
  exact oldestFirst_head lru ((Line.free_iff _).mpr free) fun m hm => mt (Line.free_iff _).mp (oldest m hm)

theorem takeable_none (h : ∀ m, (s.line m).state ≠ .invalid ∧ ¬ (s.line m).free) : s.tc.takeable = none := by
  rw [takeable_of_no_reserved (fun m => (h m).1) fun m _ => (h m).2]
  exact oldestFirst_head_none fun m => mt (Line.free_iff _).mp (h m).2

/-! ## The examination of the allocation queue (R98) -/

theorem exec_allocationExamination (s : State) :
    exec .allocationExamination s = .next (examineAllocation (s.tc.alloc.length + 1) s) := rfl

theorem exec_allocationExamination_nil (h : s.tc.alloc = []) : exec .allocationExamination s = .next s := by
  rw [exec_allocationExamination, examineAllocation, h]

/-- A head that finds a line is filled, and the examination goes on with the next head. -/
theorem exec_allocationExamination_takes {k : AllocKey} {rest : List AllocKey} (h : s.tc.alloc = k :: rest)
    (take : s.tc.takeable = some l) :
    exec .allocationExamination s =
      exec .allocationExamination (allocateLine l k (s.withTc { s.tc with alloc := rest })) := by
  have queue : (allocateLine l k (s.withTc { s.tc with alloc := rest })).tc.alloc = rest := rfl
  rw [exec_allocationExamination, exec_allocationExamination, queue, examineAllocation, h, take]
  rfl

/-- A head that finds none has one reserved for it. -/
theorem exec_allocationExamination_waits (h : s.tc.alloc ≠ []) (none : s.tc.takeable = none) :
    exec .allocationExamination s = .next (reserveLine s) := by
  obtain ⟨k, rest, h⟩ := List.exists_cons_of_ne_nil h
  rw [exec_allocationExamination, examineAllocation, h, none]

/-! ## The reserved line (R98, R103) -/

theorem any_reserved_iff (s : State) : s.tc.lines.toList.any (·.reserved) = true ↔ ∃ m, (s.line m).reserved = true := by
  rw [List.any_eq_true]
  constructor
  · rintro ⟨x, hx, h⟩
    obtain ⟨k, hk, rfl⟩ := Vector.mem_iff_getElem.mp (Vector.mem_toList_iff.mp hx)
    exact ⟨⟨k, hk⟩, h⟩
  · rintro ⟨m, h⟩
    exact ⟨s.line m, Vector.mem_toList_iff.mpr (Vector.getElem_mem m.isLt), h⟩

/-- A DIRTY line whose write-back may be issued for an allocation. -/
def Line.reservable (x : Line) : Prop := x.state = .dirty ∧ x.pinners = [] ∧ x.retryTimer = none ∧ x.through = 0

theorem Line.reservable_iff (x : Line) : (x.eligible && x.unpinned) = true ↔ x.reservable := by
  rw [Bool.and_eq_true, Line.eligible_iff, Line.unpinned_iff]
  constructor
  · rintro ⟨⟨dirty, stopped, through⟩, unpinned⟩
    exact ⟨dirty, unpinned, stopped, through⟩
  · rintro ⟨dirty, unpinned, stopped, through⟩
    exact ⟨⟨dirty, stopped, through⟩, unpinned⟩

theorem reserveLine_of_reserved (h : ∃ m, (s.line m).reserved = true) : reserveLine s = s :=
  if_pos ((any_reserved_iff s).mpr h)

theorem reserveLine_of_none_reservable (h : ∀ m, ¬ (s.line m).reservable) : reserveLine s = s := by
  unfold reserveLine
  rw [oldestFirst_head_none fun m => mt (Line.reservable_iff _).mp (h m)]
  split <;> rfl

theorem reserveLine_of_reservable (unreserved : ∀ m, (s.line m).reserved = false) {newer older : List LineId}
    (lru : s.tc.lru = newer ++ l :: older) (reservable : (s.line l).reservable)
    (oldest : ∀ m ∈ older, ¬ (s.line m).reservable) :
    reserveLine s = issueWriteback l (s.updLine l fun x => { x with reserved := true }) := by
  have none : ¬ s.tc.lines.toList.any (·.reserved) = true := by
    rw [any_reserved_iff]
    rintro ⟨m, h⟩
    exact Bool.false_ne_true ((unreserved m).symm.trans h)
  unfold reserveLine
  rw [if_neg none, oldestFirst_head lru ((Line.reservable_iff _).mpr reservable) fun m hm =>
    mt (Line.reservable_iff _).mp (oldest m hm)]
end

/-! ## Lookups (R96, R97) -/

section
variable {s : State} {op : OpId} {k block : Nat} {r : RegionId}

theorem find_none {t : TagCache} {line : Nat} (h : ∀ l, (vget t.lines l).key ≠ some (r, line)) : t.find r line = none :=
  List.find?_eq_none.mpr fun l _ => by simpa using h l

theorem find_some {t : TagCache} {line : Nat} {l : LineId} (h : (vget t.lines l).key = some (r, line))
    (lowest : ∀ m, m < l → (vget t.lines m).key ≠ some (r, line)) : t.find r line = some l :=
  find_finRange (beq_iff_eq.mpr h) fun m hm => beq_eq_false_iff_ne.mpr (lowest m hm)

theorem lookupTag_unfound (h : ∀ l, (s.line l).key ≠ some (r, block / 8)) :
    lookupTag op k r block s = queueKey r (block / 8) [(op, k)] s := by
  unfold lookupTag
  rw [show s.tc.find r (lineOfBlock block) = none from find_none h]
  rfl

theorem lookupTag_found {l : LineId} (h : (s.line l).key = some (r, block / 8))
    (lowest : ∀ m, m < l → (s.line m).key ≠ some (r, block / 8)) :
    lookupTag op k r block s = lookupLine op k block l s := by
  unfold lookupTag
  rw [show s.tc.find r (lineOfBlock block) = some l from find_some h lowest]

/-- Whether an allocation key is that of a tag line. -/
theorem allocKey_iff (a : AllocKey) (r : RegionId) (line : Nat) :
    (a.region == r && a.line == line) = true ↔ a.region = r ∧ a.line = line := by simp

/-- A key not in the allocation queue joins its tail. -/
theorem queueKey_new {line : Nat} {ws : List (OpId × Nat)} (h : ∀ a ∈ s.tc.alloc, ¬ (a.region = r ∧ a.line = line)) :
    queueKey r line ws s = { s with tc := { s.tc with alloc := s.tc.alloc ++ [⟨r, line, ws⟩] } } := by
  refine if_neg fun queued => ?_
  obtain ⟨a, ha, same⟩ := List.any_eq_true.mp queued
  exact h a ha ((allocKey_iff a r line).mp same)

/-- Parts join the list of a key that is in the allocation queue. -/
theorem queueKey_queued {line : Nat} {ws new : List (OpId × Nat)} {front back : List AllocKey}
    (h : s.tc.alloc = front ++ ⟨r, line, ws⟩ :: back) (other : ∀ a ∈ front ++ back, ¬ (a.region = r ∧ a.line = line)) :
    queueKey r line new s = { s with tc := { s.tc with alloc := front ++ ⟨r, line, ws ++ new⟩ :: back } } := by
  have keep {as : List AllocKey} (has : ∀ a ∈ as, ¬ (a.region = r ∧ a.line = line)) :
      (as.map fun a => if a.region == r && a.line == line then { a with waiters := a.waiters ++ new } else a) = as :=
    (List.map_congr_left fun a ha => if_neg (mt (allocKey_iff a r line).mp (has a ha))).trans (List.map_id as)
  have self : ((r == r) && (line == line)) = true := (allocKey_iff ⟨r, line, ws⟩ r line).mpr ⟨rfl, rfl⟩
  have queued : s.tc.alloc.any (fun a => a.region == r && a.line == line) = true :=
    List.any_eq_true.mpr ⟨⟨r, line, ws⟩, h ▸ List.mem_append_right _ List.mem_cons_self, self⟩
  unfold queueKey
  rw [if_pos queued, h, List.map_append, List.map_cons, keep fun a ha => other a (List.mem_append_left _ ha),
    keep fun a ha => other a (List.mem_append_right _ ha), if_pos self]
  rfl

/-- An operation among a line's pins once. -/
theorem Line.pin_eq {x : Line} {ps : List OpId} (pinned : op ∈ x.pinners → ps = x.pinners)
    (unpinned : op ∉ x.pinners → ps = x.pinners ++ [op]) : x.pin op = { x with pinners := ps, reserved := false } := by
  unfold Line.pin
  by_cases h : op ∈ x.pinners
  · rw [pinned h, if_pos (by simpa using h)]
  · rw [unpinned h, if_neg (by simpa using h)]

variable {l : LineId}

theorem lookupLine_present (h : (s.line l).state = .clean ∨ (s.line l).state = .dirty ∨ (s.line l).state = .cleaning) :
    lookupLine op k block l s =
      ((touchLine l s).updLine l (Line.pin op)).push [.handTag op k (vget (s.line l).tags (positionOf block))] := by
  unfold lookupLine
  obtain h | h | h := h <;> rw [h]

theorem lookupLine_filling (h : (s.line l).state = .filling) :
    lookupLine op k block l s = (touchLine l s).updLine l fun x => (x.pin op).await op k := by
  unfold lookupLine
  rw [h]

theorem lookupLine_stranded (h : (s.line l).state = .stranded) :
    lookupLine op k block l s = (touchLine l s).updLine l (Line.await op k) := by
  unfold lookupLine
  rw [h]
end

/-! ## Pins dropped (R96, R106) -/

/-- The stranded lines an operation alone pins. -/
theorem strandedBy_eq (s : State) (op : OpId) :
    s.tc.strandedBy op = allLines.filter fun l =>
      (s.line l).state == .stranded && decide (op ∈ (s.line l).pinners ∧ ∀ o ∈ (s.line l).pinners, o = op) := by
  refine List.filter_congr fun l _ => ?_
  show ((s.line l).state == .stranded && (s.line l).pinners.contains op && ((s.line l).leave op).unpinned) = _
  rw [Bool.eq_iff_iff]
  simp [Line.leave, Line.unpinned, and_assoc]

theorem Line.leave_eq (op : OpId) (x : Line) :
    x.leave op = { x with pinners := x.pinners.filter (· ≠ op), waiters := x.waiters.filter (·.1 ≠ op) } := by
  have pins : x.pinners.filter (· != op) = x.pinners.filter (· ≠ op) :=
    List.filter_congr fun _ _ => by rw [Bool.eq_iff_iff, bne_iff_ne, decide_eq_true_eq]
  rw [Line.leave, pins, filter_fst_bne]

theorem AllocKey.leave_eq (op : OpId) : AllocKey.leave op = fun a => { a with waiters := a.waiters.filter (·.1 ≠ op) } :=
  funext fun a => by rw [AllocKey.leave, filter_fst_bne]

/-- An operation leaves every line's pins and wait list and every allocation key. -/
theorem withTc_leave_eq (s : State) (op : OpId) :
    s.withTc (s.tc.leave op) = { s with tc := { s.tc with
      lines := Vector.ofFn fun l => { s.line l with
        pinners := (s.line l).pinners.filter (· ≠ op), waiters := (s.line l).waiters.filter (·.1 ≠ op) }
      alloc := (s.tc.alloc.map fun a => { a with waiters := a.waiters.filter (·.1 ≠ op) }).filter (·.waiters ≠ []) } } := by
  have lines : s.tc.lines.map (Line.leave op) = Vector.ofFn fun l => { s.line l with
      pinners := (s.line l).pinners.filter (· ≠ op), waiters := (s.line l).waiters.filter (·.1 ≠ op) } :=
    vector_ext_vget fun l => by rw [vget_map, Line.leave_eq, vget_ofFn]; rfl
  have keys (as : List AllocKey) : as.filter (fun a => !a.waiters.isEmpty) = as.filter (·.waiters ≠ []) :=
    List.filter_congr fun a _ => by rw [Bool.eq_iff_iff]; simp
  unfold TagCache.leave
  rw [lines, keys, AllocKey.leave_eq]
  rfl

/-- Settles O14: the head by the line it takes or the one reserved for it, the lookup by the line found, the pins line by line. -/
theorem allocationHeadTakesALine : Obligations.AllocationHeadTakesALine := by
  refine ⟨fun s => exec_allocationExamination_nil, fun s k rest l h hl => ?_, fun s h none => ?_,
    fun s op k r block => ⟨fun unfound => ?_, fun l pos x ps hx hk lowest hpos pinned unpinned => ?_⟩, fun s op ls hls => ?_⟩
  · have take : s.tc.takeable = some l := by
      obtain ⟨invalid, lowest⟩ | ⟨full, reserved, clean, unpinned, only⟩ |
        ⟨full, unreserved, clean, unpinned, newer, older, lru, oldest⟩ := hl
      · exact takeable_of_invalid invalid lowest
      · exact takeable_of_reserved full reserved ⟨clean, unpinned⟩ only
      · exact takeable_of_lru full (fun m reserved free => unreserved m ⟨reserved, free⟩) ⟨clean, unpinned⟩ lru oldest
    have taken := exec_allocationExamination_takes h take
    exact ⟨_, rfl, taken, fun last => taken.trans (exec_allocationExamination_nil last)⟩
  · have noLine : s.tc.takeable = .none :=
      takeable_none fun m => ⟨(none m).1, fun ⟨clean, unpinned⟩ => (none m).2 clean unpinned⟩
    rw [exec_allocationExamination_waits h noLine]
    refine ⟨fun idle => congrArg Host.Outcome.next ?_,
      fun l r line newer older unreserved lru hk dirty unpinned stopped through oldest => congrArg Host.Outcome.next ?_⟩
    · obtain reserved | ineligible := idle
      · exact reserveLine_of_reserved reserved
      · exact reserveLine_of_none_reservable fun m ⟨dirty, unpinned, stopped, through⟩ =>
          ineligible m dirty unpinned stopped through
    · have older_not_reservable (m : LineId) (hm : m ∈ older) : ¬ (s.line m).reservable :=
        fun ⟨dirty, unpinned, stopped, through⟩ => oldest m hm dirty unpinned stopped through
      rw [reserveLine_of_reservable unreserved lru ⟨dirty, unpinned, stopped, through⟩ older_not_reservable,
        issueWriteback_updLine hk rfl]
      rfl
  · rw [lookupTag_unfound unfound]
    exact ⟨queueKey_new, fun front back ws => queueKey_queued⟩
  · subst hx
    obtain rfl : pos = positionOf block := Fin.ext hpos
    have pin := Line.pin_eq pinned unpinned
    rw [lookupTag_found hk lowest]
    refine ⟨fun present => ?_, fun filling => ?_, fun stranded => ?_⟩
    · rw [lookupLine_present present, ← pin]
      rfl
    · have await : ((s.line l).pin op).await op k = { s.line l with
          pinners := ps, reserved := false, waiters := (s.line l).waiters ++ [(op, k)] } := by rw [pin]; rfl
      rw [lookupLine_filling filling, ← await]
      rfl
    · rw [lookupLine_stranded stranded]
      rfl
  · rw [hls, ← strandedBy_eq, ← withTc_leave_eq]
    rfl

end Sys2Proof.Machine
end

section
/-! PROOFS. The completion of a write-back (R102, R104 to R106), the discard of a line (R106), and what a discard sets off in the
Region Unit and the flush request table (R108, R109, R135, R136). -/

namespace Sys2Proof.Machine

/-! ## The discard of a line (R106) -/

theorem detachIssuer_of_ne {l : LineId} {i : Issuer} (h : ∀ m k, i ≠ .tagWrite (some l) m k) : detachIssuer l i = i := by
  cases i with
  | tagWrite line m k =>
    cases line with
    | none => rfl
    | some l' => exact if_neg fun e => h m k (by rw [e])
  | _ => rfl

/-- A request that names no line to be discarded, or names it no longer. -/
theorem detach_eq {l : LineId} {cut : Request → Request}
    (names : ∀ q m k, q.issuer = .tagWrite (some l) m k → cut q = { q with issuer := .tagWrite none m k })
    (keeps : ∀ q, (∀ m k, q.issuer ≠ .tagWrite (some l) m k) → cut q = q) :
    (fun q : Request => { q with issuer := detachIssuer l q.issuer }) = cut := by
  funext q
  by_cases h : ∃ m k, q.issuer = .tagWrite (some l) m k
  · obtain ⟨m, k, h⟩ := h
    rw [names q m k h, h]
    exact congrArg (fun i => { q with issuer := i }) (if_pos rfl)
  · have other : ∀ m k, q.issuer ≠ .tagWrite (some l) m k := fun m k e => h ⟨m, k, e⟩
    rw [keeps q other, detachIssuer_of_ne other]

/-- No tag write outstanding or queued names the line. -/
theorem detachLine_of_none {l : LineId} {s : State}
    (queued : ∀ w ∈ s.ma.tagQueue ++ s.ma.workQueue ++ s.ma.sweepQueue, ∀ m k, w.issuer ≠ .tagWrite (some l) m k)
    (outstanding : ∀ d w, (s.downTag d).request = some w → ∀ m k, w.issuer ≠ .tagWrite (some l) m k) :
    detachLine l s = s := by
  have same {q : Request} (h : ∀ m k, q.issuer ≠ .tagWrite (some l) m k) :
      { q with issuer := detachIssuer l q.issuer } = q := by rw [detachIssuer_of_ne h]
  have queue {qs : List Request} (h : ∀ w ∈ qs, ∀ m k, w.issuer ≠ .tagWrite (some l) m k) :
      (qs.map fun q => { q with issuer := detachIssuer l q.issuer }) = qs :=
    (List.map_congr_left fun w hw => same (h w hw)).trans (List.map_id qs)
  have tags : (s.ma.tags.map fun d => { d with request := d.request.map fun q => { q with issuer := detachIssuer l q.issuer } }) =
      s.ma.tags := by
    refine vector_ext_vget fun d => ?_
    rw [vget_map]
    cases h : (vget s.ma.tags d).request with
    | none => rw [Option.map_none, ← h]
    | some w => rw [Option.map_some, same (outstanding d w h), ← h]
  simp only [List.mem_append] at queued
  unfold detachLine MemoryArbiter.mapRequests
  rw [tags, queue fun w hw => queued w (.inl (.inl hw)), queue fun w hw => queued w (.inl (.inr hw)),
    queue fun w hw => queued w (.inr hw)]
  rfl

theorem discardLine_eq {l : LineId} {s : State} {r : RegionId} {line : Nat} (h : (s.line l).key = some (r, line)) :
    discardLine l s = requeueWaiters r line (s.line l).waiters (leaveFlushes (r, line) true (lineLost r line
      (offer (Record.ofLine .tagsDiscarded r line) (detachLine l (invalidateLine l s))))) := by
  unfold discardLine
  rw [h]

/-! ## What a discard sets off (R106, R108, R109, R135, R136) -/

section
variable {s : State} {r : RegionId} {line : Nat}

theorem lineLost_of_serving (h : (s.region r).state = .online ∨ (s.region r).state = .formatting) :
    lineLost r line s = cancelJobs (fun j => j.region == r)
      (offer (faultedRecord r line) (s.updRegion r fun g => { g with state := .faulted })) := by
  unfold lineLost
  obtain h | h := h <;> rw [h]

theorem lineLost_of_draining (h : (s.region r).state = .draining) :
    lineLost r line s = s.updRegion r fun g => { g with drainDiscards := saturate g.drainDiscards } := by
  unfold lineLost
  rw [h]

theorem lineLost_of_faulted (h : (s.region r).state = .faulted) : lineLost r line s = s := by
  unfold lineLost
  rw [h]

theorem requeueWaiters_nil : requeueWaiters r line [] s = s := rfl

theorem requeueWaiters_new {ws : List (OpId × Nat)} (waiting : ws ≠ [])
    (h : ∀ a ∈ s.tc.alloc, ¬ (a.region = r ∧ a.line = line)) :
    requeueWaiters r line ws s = { s with tc := { s.tc with alloc := s.tc.alloc ++ [⟨r, line, ws⟩] } } :=
  (if_neg (by simpa using waiting)).trans (queueKey_new h)
end

theorem FlushRequest.drop_eq (key : RegionId × Nat) (f : FlushRequest) :
    f.drop key true =
      if key ∈ f.keys then { f with keys := f.keys.filter (· != key), discarded := f.discarded + 1 } else f := by
  unfold FlushRequest.drop
  simp only [List.contains_iff_mem]
  rfl

/-- The keys a request still lists. -/
theorem FlushRequest.drop_keys (key : RegionId × Nat) (d : Bool) (f : FlushRequest) :
    (f.drop key d).keys = f.keys.filter (· != key) := by
  unfold FlushRequest.drop
  split
  · rfl
  · next h =>
    refine (List.filter_eq_self.mpr fun k hk => ?_).symm
    rw [bne_iff_ne]
    rintro rfl
    exact h (List.contains_iff_mem.mpr hk)

/-- With no request complete, none reports. -/
theorem completeFlushes_of_keys {s : State} (h : ∀ f ∈ s.tc.flushes, f.keys ≠ []) : completeFlushes s = s := by
  have none : s.tc.flushes.filter (fun f => f.keys.isEmpty) = [] :=
    List.filter_eq_nil_iff.mpr fun f hf => by simpa using h f hf
  have all : s.tc.flushes.filter (fun f => !f.keys.isEmpty) = s.tc.flushes :=
    List.filter_eq_self.mpr fun f hf => by simpa using h f hf
  unfold completeFlushes
  rw [none, all]
  rfl

theorem leaveFlushes_of_keys {s : State} {key : RegionId × Nat} (h : ∀ f ∈ s.tc.flushes, f.keys.filter (· != key) ≠ []) :
    leaveFlushes key true s = { s with tc := { s.tc with flushes := s.tc.flushes.map fun f =>
      if key ∈ f.keys then { f with keys := f.keys.filter (· != key), discarded := f.discarded + 1 } else f } } := by
  have drop : FlushRequest.drop key true = fun f =>
      if key ∈ f.keys then { f with keys := f.keys.filter (· != key), discarded := f.discarded + 1 } else f :=
    funext (FlushRequest.drop_eq key)
  rw [← drop]
  refine completeFlushes_of_keys fun f hf => ?_
  obtain ⟨g, hg, rfl⟩ := List.mem_map.mp hf
  rw [FlushRequest.drop_keys]
  exact h g hg

/-- A FLUSH whose last line is discarded ends DONE_PARTIAL. -/
theorem leaveFlushes_last {s : State} {key : RegionId × Nat} {scope : Option RegionId} {d : Nat}
    (h : s.tc.flushes = [⟨.command, scope, [key], d⟩]) :
    leaveFlushes key true s = finishCommand .donePartial { s with tc := { s.tc with flushes := [] } } := by
  have dropped : FlushRequest.drop key true ⟨.command, scope, [key], d⟩ = ⟨.command, scope, [], d + 1⟩ := by
    simp [FlushRequest.drop_eq]
  have reported (t : State) : flushReport .command (d + 1) t = finishCommand .donePartial t :=
    congrArg (finishCommand · t) (if_neg d.succ_ne_zero)
  unfold leaveFlushes
  rw [h, List.map_singleton, dropped]
  exact reported _

/-! ## The deferred tag writes (R102) -/

/-- The deferred TAG_WRITEs issued, and the line changed after them. -/
theorem issueDeferred_updLine {s : State} {l : LineId} {r : RegionId} {line : Nat} {f : Line → Line}
    (h : (s.line l).key = some (r, line)) :
    (issueDeferred l s).updLine l f = { s with
      tc := { s.tc with lines := vset s.tc.lines l (f { s.line l with deferred := [] }) }
      ma := { s.ma with tagQueue := s.ma.tagQueue ++
                (s.line l).deferred.map fun d => tagWriteRequest s l r line d.position d.maker d.part } } := by
  unfold issueDeferred
  rw [updLine_updLine, issueTagWrites_eq l r line _ s h]
  rfl

theorem issueDeferred_line {s : State} {l : LineId} {r : RegionId} {line : Nat} (h : (s.line l).key = some (r, line)) :
    (issueDeferred l s).line l = { s.line l with deferred := [] } := by
  unfold issueDeferred
  rw [issueTagWrites_eq l r line _ s h]
  exact updLine_line_same ..

theorem updLine_self {s : State} {l : LineId} {f : Line → Line} (h : f (s.line l) = s.line l) : s.updLine l f = s := by
  have lines : vset s.tc.lines l (s.line l) = s.tc.lines := Vector.set_getElem_self l.isLt
  unfold State.updLine
  rw [h, lines]
  rfl

theorem issueDeferred_of_none {s : State} {l : LineId} (h : (s.line l).deferred = []) : issueDeferred l s = s := by
  have same : { s.line l with deferred := [] } = s.line l := by rw [← h]
  unfold issueDeferred
  rw [h]
  exact updLine_self same

/-! ## A write-back completes (R104 to R106) -/

section
variable {s : State} {l : LineId} {r : RegionId} {line : Nat}

theorem setDownTag_line (t : DownTagId) (x : DownTag) : (s.setDownTag t x).line l = s.line l := rfl

/-- The response to a write-back frees its tag and is handed to its line (R163). -/
theorem exec_downstreamResponse_writeback {t : DownTagId} {q : Request} {ok : Bool} {data : List Byte}
    (porst : s.pins.porst = false) (inFlight : (s.downTag t).state = .inFlight) (request : (s.downTag t).request = some q)
    (kind : q.kind = .lineWriteback) (issuer : q.issuer = .line l) (key : (s.line l).key = some (r, line))
    (cleaning : (s.line l).state = .cleaning) :
    exec (.downstreamResponse t ok data) s = .next (run
      (if ok then writebackOk l (s.setDownTag t .powerOn) else writebackFail l r line (s.setDownTag t .powerOn))) := by
  have taken : responseArrives t ok data s = run (takeResponse t q ok data s) := by
    unfold responseArrives
    rw [if_neg (by simp [porst]), inFlight, request]
  have handed : takeResponse t q ok data s = lineDone l ok [] (s.setDownTag t .powerOn) := by
    unfold takeResponse complete
    rw [kind, issuer, if_pos (by simp [ReqKind.isWrite])]
  have atLine : lineDone l ok [] (s.setDownTag t .powerOn) =
      if ok then writebackOk l (s.setDownTag t .powerOn) else writebackFail l r line (s.setDownTag t .powerOn) := by
    unfold lineDone
    rw [setDownTag_line, key, cleaning]
  rw [← atLine, ← handed, ← taken]
  rfl

/-! ### An OK completion -/

theorem writebackOk_redirtied (redirty : (s.line l).redirty = true) :
    writebackOk l s = dirtied l ((issueDeferred l s).updLine l fun x =>
      { x with state := .dirty, redirty := false, attempts := 0, reserved := false }) := if_pos redirty

theorem writebackOk_clean (key : (s.line l).key = some (r, line)) (redirty : (s.line l).redirty = false) :
    writebackOk l s = leaveFlushes (r, line) false
      ((issueDeferred l s).updLine l fun x => { x with state := .clean, attempts := 0 }) := by
  have key' : ((issueDeferred l s).line l).key = some (r, line) := by rw [issueDeferred_line key, key]
  unfold writebackOk becomeClean
  rw [if_neg (by simp [redirty]), key']

/-- Not redirtied, on no flush list and with nothing deferred, the line is CLEAN and nothing else changes. -/
theorem writebackOk_quiet (key : (s.line l).key = some (r, line)) (redirty : (s.line l).redirty = false)
    (deferred : (s.line l).deferred = []) (unlisted : ∀ f ∈ s.tc.flushes, (r, line) ∉ f.keys ∧ f.keys ≠ []) :
    writebackOk l s = s.updLine l fun x => { x with state := .clean, attempts := 0 } := by
  rw [writebackOk_clean key redirty, issueDeferred_of_none deferred]
  exact leaveFlushes_none _ _ _ unlisted

/-! ### A failed completion -/

theorem writebackFail_retried (few : (s.line l).attempts < 2) :
    writebackFail l r line s = dirtied l (offer (retryRecord r line ((s.line l).attempts + 1))
      ((issueDeferred l s).updLine l fun x => { x with
        state := .dirty, redirty := false, attempts := x.attempts + 1, throughFault := true, reserved := false
        retryTimer := some 32 })) := if_pos (by show _ < 3; omega)

/-- One line changed adds at most one DIRTY line. -/
theorem dirtyCount_updLine_le (s : State) (l : LineId) (f : Line → Line) :
    (s.updLine l f).tc.dirtyCount ≤ s.tc.dirtyCount + 1 := by
  have bound : l.val < s.tc.lines.toList.length := by simp
  show (vset s.tc.lines l (f (s.line l))).toList.countP (·.state == .dirty) ≤ s.tc.lines.toList.countP (·.state == .dirty) + 1
  rw [vset, Vector.toList_set, List.countP_set bound]
  split <;> split <;> omega

/-- A line that waits for its retry timer is not written back, and the DIRTY lines are not above the mark with it. -/
theorem dirtied_waiting {rec : Record} (f : Line → Line) (timer : (f (s.line l)).retryTimer ≠ none)
    (room : s.tc.dirtyCount < 24) : dirtied l (offer rec (s.updLine l f)) = offer rec (s.updLine l f) := by
  have waits : demandWriteback l (offer rec (s.updLine l f)) = offer rec (s.updLine l f) := by
    refine demandWriteback_of_not_eligible fun eligible => timer ?_
    obtain ⟨_, stopped, _⟩ := (Line.eligible_iff _).mp eligible
    exact (updLine_line_same s l f) ▸ stopped
  unfold dirtied
  rw [waits]
  exact highWater_of_dirtyCount_le (Nat.le_trans (dirtyCount_updLine_le s l f) room)

/-- With nothing deferred and the DIRTY lines below the mark, the line waits for its retry timer and nothing is written back. -/
theorem writebackFail_quiet (few : (s.line l).attempts < 2) (deferred : (s.line l).deferred = []) (room : s.tc.dirtyCount < 24) :
    writebackFail l r line s = offer (retryRecord r line ((s.line l).attempts + 1)) (s.updLine l fun x => { x with
      state := .dirty, redirty := false, attempts := x.attempts + 1, throughFault := true, reserved := false
      retryTimer := some 32 }) := by
  rw [writebackFail_retried few, issueDeferred_of_none deferred]
  exact dirtied_waiting (fun x => { x with
    state := .dirty, redirty := false, attempts := x.attempts + 1, throughFault := true, reserved := false
    retryTimer := some 32 }) nofun room

theorem writebackFail_pinned (key : (s.line l).key = some (r, line)) (third : 2 ≤ (s.line l).attempts)
    (pinned : (s.line l).pinners ≠ []) :
    writebackFail l r line s = (issueDeferred l s).updLine l fun x => { x with
      state := .stranded, attempts := x.attempts + 1, throughFault := true, reserved := false } := by
  unfold writebackFail strandLine
  rw [if_neg (by show ¬ _ < 3; omega), if_neg, updLine_updLine]
  · rfl
  · rw [updLine_line_same, issueDeferred_line key, Line.unpinned_iff]
    exact pinned

theorem writebackFail_unpinned (key : (s.line l).key = some (r, line)) (third : 2 ≤ (s.line l).attempts)
    (unpinned : (s.line l).pinners = []) :
    writebackFail l r line s = discardLine l ((issueDeferred l s).updLine l fun x => { x with
      state := .stranded, attempts := x.attempts + 1, throughFault := true, reserved := false }) := by
  unfold writebackFail strandLine
  rw [if_neg (by show ¬ _ < 3; omega), if_pos, updLine_updLine]
  · rfl
  · rw [updLine_line_same, issueDeferred_line key, Line.unpinned_iff]
    exact unpinned

/-- A line discarded with nothing deferred and no tag write that names it. -/
theorem writebackFail_discards (key : (s.line l).key = some (r, line)) (third : 2 ≤ (s.line l).attempts)
    (unpinned : (s.line l).pinners = []) (deferred : (s.line l).deferred = [])
    (queued : ∀ w ∈ s.ma.tagQueue ++ s.ma.workQueue ++ s.ma.sweepQueue, ∀ m k, w.issuer ≠ .tagWrite (some l) m k)
    (outstanding : ∀ d w, (s.downTag d).request = some w → ∀ m k, w.issuer ≠ .tagWrite (some l) m k) :
    writebackFail l r line s = requeueWaiters r line (s.line l).waiters (leaveFlushes (r, line) true (lineLost r line
      (offer (Record.ofLine .tagsDiscarded r line) (invalidateLine l s)))) := by
  have invalidated (f : Line → Line) : invalidateLine l (s.updLine l f) = invalidateLine l s := by
    simp only [invalidateLine, State.updLine, withTc_tc, vset_vset]
    rfl
  rw [writebackFail_unpinned key third unpinned, issueDeferred_of_none deferred, discardLine_eq (by rw [updLine_line_same, key]),
    invalidated, detachLine_of_none (s := invalidateLine l s) queued outstanding, updLine_line_same]
end

/-- Settles O17: each result of the completion, quiet and in general, the discard, and what a discard sets off. -/
theorem writebackCompletion : Obligations.WritebackCompletion := by
  refine ⟨fun s t q l r line data porst work inFlight request kind issuer key cleaning deferred unlisted => ?_,
    fun s u t q l r line data x porst inFlight request kind issuer hx key cleaning deferred third hu => ?_,
    fun r line y => ⟨lineLost_of_serving, lineLost_of_draining, lineLost_of_faulted, requeueWaiters_nil,
      fun ws => requeueWaiters_new, leaveFlushes_of_keys, fun scope d => leaveFlushes_last⟩,
    fun s u w t q ok data l r line x porst inFlight request kind issuer hx key cleaning hu hw => ?_,
    fun y l r line cut key names keeps => ?_⟩
  · have completes {ok : Bool} :=
      exec_downstreamResponse_writeback (ok := ok) (data := data) porst inFlight request kind issuer key cleaning
    refine ⟨fun redirty => ?_, fun few room => ?_⟩
    · rw [completes, if_pos rfl, writebackOk_quiet (s := s.setDownTag t .powerOn) key redirty deferred unlisted]
      exact congrArg Host.Outcome.next (run_nil _ work)
    · rw [completes, if_neg nofun, writebackFail_quiet (s := s.setDownTag t .powerOn) few deferred room]
      exact congrArg Host.Outcome.next (run_nil _ work)
  · subst hx hu
    rw [exec_downstreamResponse_writeback porst inFlight request kind issuer key cleaning, if_neg nofun]
    refine ⟨fun pinned => ?_, fun unpinned queued outstanding => ?_⟩
    · rw [writebackFail_pinned (s := s.setDownTag t .powerOn) key third pinned, issueDeferred_of_none (by exact deferred)]
      rfl
    · have freed (d : DownTagId) (w : Request) (h : ((s.setDownTag t .powerOn).downTag d).request = some w) :
          (s.downTag d).request = some w := by
        rw [setDownTag_downTag] at h
        split at h
        · cases h
        · exact h
      rw [writebackFail_discards (s := s.setDownTag t .powerOn) key third unpinned deferred queued
        fun d w h => outstanding d w (freed d w h)]
      rfl
  · subst hx hu hw
    have writes {f : Line → Line} := issueDeferred_updLine (s := s.setDownTag t .powerOn) (f := f) key
    rw [exec_downstreamResponse_writeback porst inFlight request kind issuer key cleaning]
    refine ⟨?_, ?_, ?_, ?_, ?_⟩
    · rintro rfl redirty
      rw [if_pos rfl, writebackOk_redirtied (s := s.setDownTag t .powerOn) redirty, writes]
      rfl
    · rintro rfl redirty
      rw [if_pos rfl, writebackOk_clean (s := s.setDownTag t .powerOn) key redirty, writes]
      rfl
    · rintro rfl few
      rw [if_neg nofun, writebackFail_retried (s := s.setDownTag t .powerOn) few, writes]
      rfl
    · rintro rfl third pinned
      rw [if_neg nofun, writebackFail_pinned (s := s.setDownTag t .powerOn) key third pinned, writes]
      rfl
    · rintro rfl third unpinned
      rw [if_neg nofun, writebackFail_unpinned (s := s.setDownTag t .powerOn) key third unpinned, writes]
      rfl
  · rw [discardLine_eq key, ← detach_eq names keeps]
    rfl

end Sys2Proof.Machine
end

section
/-! PROOFS. Job IDs: the ID the next job takes and the counter after it, along the ring of 255 IDs (R113, R114). -/

namespace Sys2Proof.Machine

/-! ## The ring of job IDs -/

theorem jobIdAfter_toNat (i : BitVec 8) : (jobIdAfter i).toNat = i.toNat % 255 + 1 := by
  unfold jobIdAfter
  split
  · next h255 => rw [h255]; rfl
  · next h255 => bv_omega

theorem jobIdAfter_ne_zero (i : BitVec 8) : jobIdAfter i ≠ 0 :=
  BitVec.toNat_ne.mpr (by rw [jobIdAfter_toNat]; exact Nat.succ_ne_zero _)

theorem idSteps_succ (n : Nat) (i : BitVec 8) : idSteps (n + 1) i = idSteps n (jobIdAfter i) := rfl

theorem idSteps_ne_zero (n : Nat) {i : BitVec 8} (h : i ≠ 0) : idSteps n i ≠ 0 := by
  induction n generalizing i with
  | zero => exact h
  | succ n ih => exact ih (jobIdAfter_ne_zero i)

/-- The IDs 1 to 255 stand in a ring. -/
theorem idSteps_toNat (n : Nat) {i : BitVec 8} (h : i ≠ 0) : (idSteps n i).toNat = (i.toNat - 1 + n) % 255 + 1 := by
  have positive : 0 < i.toNat := by bv_omega
  have lt := i.isLt
  induction n generalizing i with
  | zero => show i.toNat = _; omega
  | succ n ih =>
    have hj := jobIdAfter_toNat i
    rw [idSteps_succ, ih (jobIdAfter_ne_zero i) (by omega) (BitVec.isLt _), hj]
    omega

/-- Fewer than 256 IDs in succession are all different. -/
theorem nodup_idSteps {n : Nat} (hn : n ≤ 255) {i : BitVec 8} (h : i ≠ 0) :
    ((List.range n).map fun m => idSteps m i).Nodup := by
  refine List.pairwise_map.mpr (List.pairwise_lt_range.imp_of_mem fun {a b} ha hb lt e => ?_)
  have ea := idSteps_toNat a h
  have eb := idSteps_toNat b h
  rw [e] at ea
  have := List.mem_range.mp ha
  have := List.mem_range.mp hb
  omega

/-! ## The first ID that no job holds -/

/-- Whether a job of a queue holds an ID. -/
theorem any_id_iff (js : List Job) (i : BitVec 8) : js.any (·.id == i) = true ↔ ∃ j ∈ js, j.id = i := by simp

theorem freeJobId_held {n : Nat} {js : List Job} {i : BitVec 8} (h : ∃ j ∈ js, j.id = i) :
    freeJobId (n + 1) js i = freeJobId n js (jobIdAfter i) := if_pos ((any_id_iff js i).mpr h)

theorem freeJobId_unheld {n : Nat} {js : List Job} {i : BitVec 8} (h : ∀ j ∈ js, j.id ≠ i) : freeJobId n js i = i := by
  cases n with
  | zero => rfl
  | succ n =>
    refine if_neg fun held => ?_
    obtain ⟨j, hj, e⟩ := (any_id_iff js i).mp held
    exact h j hj e

/-- The search steps over held IDs alone, and ends at an unheld one or when its rounds are used up. -/
theorem freeJobId_steps (n : Nat) (js : List Job) (i : BitVec 8) :
    ∃ k, freeJobId n js i = idSteps k i ∧ (∀ m, m < k → ∃ j ∈ js, j.id = idSteps m i) ∧
      (k = n ∨ ∀ j ∈ js, j.id ≠ freeJobId n js i) := by
  induction n generalizing i with
  | zero => exact ⟨0, rfl, fun m hm => absurd hm (Nat.not_lt_zero m), .inl rfl⟩
  | succ n ih =>
    by_cases held : ∃ j ∈ js, j.id = i
    · obtain ⟨k, reached, stepped, ends⟩ := ih (jobIdAfter i)
      rw [freeJobId_held held]
      refine ⟨k + 1, reached, fun m hm => ?_, ends.imp_left (congrArg Nat.succ)⟩
      cases m with
      | zero => exact held
      | succ m => exact stepped m (Nat.lt_of_succ_lt_succ hm)
    · have unheld : ∀ j ∈ js, j.id ≠ i := fun j hj e => held ⟨j, hj, e⟩
      refine ⟨0, freeJobId_unheld unheld, fun m hm => absurd hm (Nat.not_lt_zero m), .inr ?_⟩
      rw [freeJobId_unheld unheld]
      exact unheld

/-- With more rounds than jobs the search finds an ID that no job holds: so many IDs cannot all be held. -/
theorem freeJobId_free {n : Nat} {js : List Job} {i : BitVec 8} (rounds : js.length < n) (hn : n ≤ 255) (h : i ≠ 0) :
    ∀ j ∈ js, j.id ≠ freeJobId n js i := by
  obtain ⟨k, -, stepped, rfl | free⟩ := freeJobId_steps n js i
  · have held : ((List.range k).map fun m => idSteps m i) ⊆ js.map (·.id) := by
      intro x hx
      obtain ⟨m, hm, rfl⟩ := List.mem_map.mp hx
      exact List.mem_map.mpr (stepped m (List.mem_range.mp hm))
    have fits := (nodup_idSteps hn h).length_le_of_subset held
    simp only [List.length_map, List.length_range] at fits
    omega
  · exact free

theorem freeJobId_ne_zero (n : Nat) (js : List Job) {i : BitVec 8} (h : i ≠ 0) : freeJobId n js i ≠ 0 := by
  obtain ⟨k, reached, -⟩ := freeJobId_steps n js i
  rw [reached]
  exact idSteps_ne_zero k h

/-! ## A job accepted (R113, R114) -/

theorem SweepUnit.accept_nextId (u : SweepUnit) (k : JobKind) (r : RegionId) (first count : Nat) (fe : Option Epoch) :
    (u.accept k r first count fe).nextId =
      freeJobId (u.jobs.length + 2) (u.accept k r first count fe).jobs (jobIdAfter u.idToGive) := rfl

/-- In an empty queue the counter's value is given, and the counter moves on by one. -/
theorem accept_nextId_of_empty {u : SweepUnit} (k : JobKind) (r : RegionId) (first count : Nat) (fe : Option Epoch)
    (empty : u.jobs = []) : (u.accept k r first count fe).nextId = jobIdAfter u.nextId := by
  have given : u.idToGive = u.nextId := freeJobId_unheld (by simp [empty])
  have moved : jobIdAfter u.nextId ≠ u.nextId := by
    have after := jobIdAfter_toNat u.nextId
    exact BitVec.toNat_ne.mpr (by omega)
  rw [SweepUnit.accept_nextId, given]
  refine freeJobId_unheld fun j hj => ?_
  obtain rfl : j = Job.new u.idToGive k r first count fe := by
    simpa [SweepUnit.accept, empty] using hj
  rw [Job.new, given]
  exact moved.symm

/-- Settles O44: the search for an ID, from the counter for the job and from the ID after it for the counter. -/
theorem jobsTakeTheNextFreeId : Obligations.JobsTakeTheNextFreeId := by
  intro u k r first count fe short started
  have given_ne : u.idToGive ≠ 0 := freeJobId_ne_zero _ _ started
  have after_ne : jobIdAfter u.idToGive ≠ 0 := jobIdAfter_ne_zero _
  have longer : (u.accept k r first count fe).jobs.length = u.jobs.length + 1 := List.length_append
  obtain ⟨n, given, passed, -⟩ := freeJobId_steps (u.jobs.length + 1) u.jobs u.nextId
  obtain ⟨m, next, skipped, -⟩ :=
    freeJobId_steps (u.jobs.length + 2) (u.accept k r first count fe).jobs (jobIdAfter u.idToGive)
  refine ⟨⟨n, given, passed⟩, fun free => freeJobId_unheld ?_, given_ne, freeJobId_free (by omega) (by omega) started, rfl,
    ⟨m, next, skipped⟩, freeJobId_ne_zero _ _ after_ne, freeJobId_free (by omega) (by omega) after_ne, fun empty => ?_⟩
  · simpa using free
  · rw [accept_nextId_of_empty k r first count fe empty, jobIdAfter_toNat]
    have := u.nextId.isLt
    split <;> omega

end Sys2Proof.Machine
end

section
/-! PROOFS. SET PACING, SET TIMEOUT and SET SWEEP SHARE (R121, R167, R168), and QUERY SWEEP with its snapshot group by group (R122,
R188). -/

namespace Sys2Proof.Machine

/-! ## Programmed values (R121, R167, R168) -/

section
variable {c : Command} {s : State}

theorem cmdSetPacing_inRange (h : c.field 0 4 ≤ 65535) :
    cmdSetPacing c s = finishCommand .doneOk (s.withSu { s.su with pacing := c.field 0 4 }) := if_neg (Nat.not_lt.mpr h)

theorem cmdSetPacing_badParam (h : 65535 < c.field 0 4) : cmdSetPacing c s = finishCommand .refusedParam s := if_pos h

theorem cmdSetTimeout_inRange (low : 1 ≤ c.field 0 2) (high : c.field 0 2 ≤ 1023) :
    cmdSetTimeout c s = finishCommand .doneOk (s.withMa { s.ma with timeout := c.field 0 2 }) := if_neg (by omega)

theorem cmdSetTimeout_badParam (h : c.field 0 2 = 0 ∨ 1023 < c.field 0 2) :
    cmdSetTimeout c s = finishCommand .refusedParam s := if_pos h

theorem cmdSetSweepShare_inRange (low : 1 ≤ c.field 0 1) (high : c.field 0 1 ≤ 16) :
    cmdSetSweepShare c s = finishCommand .doneOk (s.withMa { s.ma with share := c.field 0 1 }) := if_neg (by omega)

theorem cmdSetSweepShare_badParam (h : c.field 0 1 = 0 ∨ 16 < c.field 0 1) :
    cmdSetSweepShare c s = finishCommand .refusedParam s := if_pos h
end

/-- Settles O46: each command by whether its field is in range. -/
theorem setPacingTimeoutAndShare : Obligations.SetPacingTimeoutAndShare := by
  intro s hs
  rw [exec_setPacing s hs, exec_setTimeout s hs, exec_setSweepShare s hs]
  exact ⟨fun h => congrArg _ (cmdSetPacing_inRange h), fun h => congrArg _ (cmdSetPacing_badParam h),
    fun low high => congrArg _ (cmdSetTimeout_inRange low high), fun h => congrArg _ (cmdSetTimeout_badParam h),
    fun low high => congrArg _ (cmdSetSweepShare_inRange low high), fun h => congrArg _ (cmdSetSweepShare_badParam h)⟩

/-! ## Pieces of a layout -/

/-- The `k`-th of several lists laid end to end is read back whole. -/
theorem slice_flatten_piece {fs : List (List Byte)} {k off : Nat} {f : List Byte} (hk : fs[k]? = some f)
    (ho : ((fs.take k).map List.length).sum = off) : slice off f.length fs.flatten = f := by
  have whole : slice 0 f.length f = f := List.take_length
  exact (slice_flatten (i := 0) hk ho (Nat.le_of_eq (Nat.zero_add _))).trans whole

/-! ## A job's group (R188) -/

/-- The fields of a job's group in the order of R188. -/
def Job.snapshotFields (j : Job) : List (List Byte) :=
  [[j.id], leBytes 1 j.kind.code, leBytes 1 j.region.val, leBytes 4 j.first, leBytes 4 j.count, leBytes 4 j.position,
    leBytes 1 j.stateByte, leBytes 4 j.done, leBytes 4 j.skipped, leBytes 4 j.errors]

theorem Job.snapshot_eq_flatten (j : Job) : j.snapshot = j.snapshotFields.flatten := by
  unfold Job.snapshot Job.snapshotFields
  simp only [List.flatten_cons, List.flatten_nil, List.append_assoc, List.append_nil]

/-- The lengths of the fields of a group, and so their offsets (R188). -/
def jobLengths : List Nat := [1, 1, 1, 4, 4, 4, 1, 4, 4, 4]

theorem Job.snapshotFields_lengths (j : Job) : j.snapshotFields.map List.length = jobLengths := by
  simp only [Job.snapshotFields, List.map_cons, List.map_nil, leBytes_length, List.length_singleton, jobLengths]

/-- Each job's group is 28 bytes. -/
theorem jobSnapshots_length (js : List Job) : (js.flatMap Job.snapshot).length = 28 * js.length := by
  induction js with
  | nil => rfl
  | cons j js ih =>
    have group : j.snapshot.length = 28 := by
      rw [j.snapshot_eq_flatten, List.length_flatten, j.snapshotFields_lengths]
      rfl
    rw [List.flatMap_cons, List.length_append, ih, group, List.length_cons]
    omega

theorem JobKind.code_lt (x : JobKind) : x.code < 256 := by cases x <;> decide
theorem JobState.code_le (x : JobState) : x.code ≤ 2 := by cases x <;> decide
theorem JobStep.code_le (x : JobStep) : x.code ≤ 3 := by cases x <;> decide
theorem Job.stateByte_lt (j : Job) : j.stateByte < 256 := by
  have hs := j.state.code_le
  have ht := j.step.code_le
  have hc := bit_le_one j.cancelRequested
  unfold Job.stateByte
  omega

/-! ## The sweep's snapshot (R122) -/

/-- The pacing interval, the counter and the job count. -/
def SweepUnit.header (u : SweepUnit) : List Byte := leBytes 2 u.pacing ++ [u.nextId] ++ leBytes 1 u.jobs.length

section
variable {u : SweepUnit} (v : Vector Byte 128) (short : u.jobs.length ≤ 4)
include short

/-- The header, a group for each job, and zeros for the groups beyond them. -/
theorem SweepUnit.snapshot_eq :
    u.snapshot = u.header ++ u.jobs.flatMap Job.snapshot ++ List.replicate (112 - 28 * u.jobs.length) 0 := by
  have groups : (u.jobs.flatMap Job.snapshot ++ List.replicate 112 0).take 112 =
      u.jobs.flatMap Job.snapshot ++ List.replicate (112 - 28 * u.jobs.length) 0 := by
    have full := jobSnapshots_length u.jobs
    rw [List.take_append, List.take_of_length_le (by omega), List.take_replicate, full, Nat.min_eq_left (Nat.sub_le _ _)]
  rw [SweepUnit.snapshot, groups, List.append_assoc]
  rfl

theorem SweepUnit.snapshot_length : u.snapshot.length = 116 := by
  rw [SweepUnit.snapshot_eq short, List.length_append, List.length_append, jobSnapshots_length, List.length_replicate]
  show 4 + _ + _ = 116
  omega

/-- The registers once the snapshot is written. -/
theorem writeAt_sweepSnapshot : ∃ rest : List Byte,
    (writeAt 0 u.snapshot v).toList = u.header ++ (u.jobs.flatMap Job.snapshot ++ rest) := by
  refine ⟨List.replicate (112 - 28 * u.jobs.length) 0 ++ v.toList.drop u.snapshot.length, ?_⟩
  rw [writeAt_zero_toList v (by rw [SweepUnit.snapshot_length short]; decide), SweepUnit.snapshot_eq short]
  simp only [List.append_assoc]

/-- The header is read back. -/
theorem slice_sweepHeader :
    slice 0 2 (writeAt 0 u.snapshot v).toList = leBytes 2 u.pacing ∧
      slice 2 1 (writeAt 0 u.snapshot v).toList = [u.nextId] ∧
      slice 3 1 (writeAt 0 u.snapshot v).toList = leBytes 1 u.jobs.length := by
  obtain ⟨rest, laid⟩ := writeAt_sweepSnapshot v short
  rw [laid]
  exact ⟨rfl, rfl, rfl⟩

/-- A field of the `k`-th job's group is read back. -/
theorem slice_sweepJob {k i off : Nat} {j : Job} {f : List Byte} (hj : u.jobs[k]? = some j)
    (hf : j.snapshotFields[i]? = some f) (ho : (jobLengths.take i).sum = off) :
    slice (4 + off + 28 * k) f.length (writeAt 0 u.snapshot v).toList = f := by
  obtain ⟨hk, hget⟩ := List.getElem?_eq_some_iff.mp hj
  obtain ⟨hi, -⟩ := List.getElem?_eq_some_iff.mp hf
  have jobs : u.jobs = u.jobs.take k ++ j :: u.jobs.drop (k + 1) := by
    rw [← hget, ← List.drop_eq_getElem_cons hk, List.take_append_drop]
  obtain ⟨rest, laid⟩ := writeAt_sweepSnapshot v short
  have before : (u.header ++ (u.jobs.take k).flatMap Job.snapshot).length = 4 + 28 * k := by
    rw [List.length_append, jobSnapshots_length, List.length_take, Nat.min_eq_left (Nat.le_of_lt hk)]
    rfl
  have pieces : (writeAt 0 u.snapshot v).toList = ((u.header ++ (u.jobs.take k).flatMap Job.snapshot) ::
      (j.snapshotFields ++ [(u.jobs.drop (k + 1)).flatMap Job.snapshot ++ rest])).flatten := by
    rw [laid]
    conv => lhs; rw [jobs]
    simp [j.snapshot_eq_flatten]
  have offset : 4 + off + 28 * k = 4 + 28 * k + off := by omega
  rw [pieces, offset]
  refine slice_flatten_piece (k := i + 1) ?_ ?_
  · rw [List.getElem?_cons_succ, List.getElem?_append_left hi, hf]
  · rw [List.take_succ_cons, List.map_cons, List.sum_cons, before, List.take_append_of_le_length (Nat.le_of_lt hi),
      List.map_take, j.snapshotFields_lengths, ho]

/-- A numeric field of the `k`-th job's group reads back as its number. -/
theorem leNat_sweepJob {k : Nat} {j : Job} (i : Nat) {off n x : Nat} (hj : u.jobs[k]? = some j)
    (hf : j.snapshotFields[i]? = some (leBytes n x)) (ho : (jobLengths.take i).sum = off) (hx : x < 256 ^ n) :
    leNat (slice (4 + off + 28 * k) n (writeAt 0 u.snapshot v).toList) = x := by
  have read := slice_sweepJob v short hj hf ho
  rw [leBytes_length] at read
  rw [read, leNat_leBytes hx]

/-- The groups beyond the jobs are zeros. -/
theorem vget_sweepSnapshot_beyond {k : Fin 128} (low : 4 + 28 * u.jobs.length ≤ k.val) (high : k.val < 116) :
    vget (writeAt 0 u.snapshot v) k = 0 := by
  have before : (u.header ++ u.jobs.flatMap Job.snapshot).length = 4 + 28 * u.jobs.length := by
    rw [List.length_append, jobSnapshots_length]
    rfl
  rw [vget_writeAt_zero, SweepUnit.snapshot_eq short, List.getElem?_append_right (by omega), before,
    List.getElem?_replicate_of_lt (by omega)]
  rfl
end

/-- Settles O47: the header and each job's fields read back from the result registers at the offsets of R188. -/
theorem querySweepShowsTheQueue : Obligations.QuerySweepShowsTheQueue := by
  intro s hs hpacing short
  obtain ⟨pacing, counter, count⟩ := slice_sweepHeader s.mp.results short
  rw [exec_querySweep s hs]
  refine ⟨writeAt 0 s.su.snapshot s.mp.results, rfl, by rw [pacing, leNat_leBytes hpacing], counter,
    by rw [count, leNat_leBytes (by omega)], fun k j hj => ?_, fun k => vget_sweepSnapshot_beyond _ short,
    fun k past => vget_writeAt_past _ (by rw [SweepUnit.snapshot_length short]; exact past)⟩
  have number {off n x : Nat} (i : Nat) := leNat_sweepJob (off := off) (n := n) (x := x) s.mp.results short i hj
  refine ⟨slice_sweepJob s.mp.results short (i := 0) hj rfl rfl, (number 1 rfl rfl j.kind.code_lt).trans ?_,
    number 2 rfl rfl (by omega), number 3 rfl rfl, number 4 rfl rfl, number 5 rfl rfl,
    (number 6 rfl rfl j.stateByte_lt).trans ?_, number 7 rfl rfl, number 8 rfl rfl, number 9 rfl rfl⟩
  · cases j.kind <;> rfl
  · unfold Job.stateByte
    cases j.state <;> cases j.step <;> rfl

end Sys2Proof.Machine
end

section
/-! PROOFS. A sweep job's start, join and end, the end of its work on a block and its next action, and the pacing timer's expiry (R47,
R115, R123, R124, R126, R128, R129). -/

namespace Sys2Proof.Machine

/-! ## The head job (R47, R115) -/

theorem JobKind.mode_eq (k : JobKind) : k.mode = if k = .scrub then .shared else .exclusive := by cases k <;> rfl

/-- The mode `JobKind.mode` gives, as the statements write it. -/
theorem joinEntries_mode (k : JobKind) (r : RegionId) (b : Nat) (es : List Entry) :
    joinEntries .sweep (if k = .scrub then .shared else .exclusive) r b es = joinEntries .sweep k.mode r b es := by
  rw [JobKind.mode_eq]

section
variable {s : State} {j : Job} {rest : List Job}

theorem updHeadJob_cons (h : s.su.jobs = j :: rest) (f : Job → Job) : s.updHeadJob f = s.withJobs (f j :: rest) := by
  unfold State.updHeadJob
  rw [h]

theorem setStep_cons (h : s.su.jobs = j :: rest) (st : JobStep) : setStep st s = s.withJobs ({ j with step := st } :: rest) := by
  unfold setStep
  rw [h]
  rfl

/-- The running job joins the block at its position and is WAITING. -/
theorem joinSweep_cons (h : s.su.jobs = j :: rest) :
    joinSweep s = { s with
      su := { s.su with jobs := { j with step := .waiting } :: rest }
      obt := { s.obt with
          entries := joinEntries .sweep (if j.kind = .scrub then .shared else .exclusive) j.region j.position s.obt.entries }
      work := s.work ++ [.grant j.region j.position] } := by
  unfold joinSweep
  rw [h, setStep_cons h, joinEntries_mode]
  rfl

theorem startNext_nil (h : s.su.jobs = []) : startNext s = s := by
  unfold startNext
  rw [h]

theorem startNext_started (h : s.su.jobs = j :: rest) (started : j.state ≠ .queued) : startNext s = s := by
  unfold startNext
  rw [h]
  exact if_neg started

/-- A queued job at the head starts: it is RUNNING at its first block, which it joins. -/
theorem startNext_queued (h : s.su.jobs = j :: rest) (queued : j.state = .queued) :
    startNext s = { s with
      su := { s.su with jobs := { j with state := .running, position := j.first, step := .waiting } :: rest }
      obt := { s.obt with
          entries := joinEntries .sweep (if j.kind = .scrub then .shared else .exclusive) j.region j.first s.obt.entries }
      work := s.work ++ [.grant j.region j.first] } := by
  unfold startNext
  rw [h]
  exact (if_pos queued).trans
    (joinSweep_cons (s := s.withJobs ({ j with state := .running, position := j.first } :: rest)) rfl)

theorem endHeadJob_cons (h : s.su.jobs = j :: rest) (k : RecordKind) (d : Option Nat) :
    endHeadJob k d s = startNext ((offer (jobRecord k j d) s).withJobs rest) := by
  unfold endHeadJob
  rw [h]

/-- The last job of the queue ends. -/
theorem endHeadJob_last (h : s.su.jobs = [j]) (k : RecordKind) (d : Option Nat) :
    endHeadJob k d s = { s with su := { s.su with jobs := [] }, el := s.el.offer (jobRecord k j d) } :=
  (endHeadJob_cons h k d).trans (startNext_nil rfl)

/-- The head job ends, and the job behind it starts. -/
theorem endHeadJob_next {next : Job} {more : List Job} (h : s.su.jobs = j :: next :: more) (queued : next.state = .queued)
    (k : RecordKind) (d : Option Nat) :
    endHeadJob k d s = { s with
      su := { s.su with jobs := { next with state := .running, position := next.first, step := .waiting } :: more }
      obt := { s.obt with
          entries := joinEntries .sweep (if next.kind = .scrub then .shared else .exclusive) next.region next.first s.obt.entries }
      work := s.work ++ [.grant next.region next.first], el := s.el.offer (jobRecord k j d) } :=
  (endHeadJob_cons h k d).trans (startNext_queued rfl queued)

/-! ## The end of a block's work (R123, R124) -/

theorem advanceFrontier_format (h : j.kind = .format) :
    advanceFrontier j s = s.updRegion j.region (Region.advance j.position) := by
  unfold advanceFrontier
  rw [h]

theorem advanceFrontier_other (h : j.kind ≠ .format) : advanceFrontier j s = s := by
  unfold advanceFrontier
  split
  · next k => exact absurd k h
  · rfl
  · rfl

theorem endBlock_cons (h : s.su.jobs = j :: rest) (e : BlockEnd) :
    endBlock e s = nextAction (releaseOp .sweep
      ((advanceFrontier j (s.withJobs (j.passed e :: rest))).setBlockWork .idle)) := by
  unfold endBlock
  rw [h, ← updHeadJob_cons h]

/-! ## The next action (R126, R128, R129) -/

theorem nextAction_cancelled (h : s.su.jobs = j :: rest) (cancelled : j.cancelRequested = true) :
    nextAction s = endHeadJob .sweepCancelled none s := by
  unfold nextAction
  rw [h]
  exact if_pos cancelled

/-- With blocks left, a SCRUB job paces itself. -/
theorem nextAction_scrub (h : s.su.jobs = j :: rest) (kept : j.cancelRequested = false) (more : j.position < j.first + j.count)
    (k : j.kind = .scrub) : nextAction s = startPacing s := by
  unfold nextAction
  rw [h]
  dsimp only
  rw [if_neg (Bool.eq_false_iff.mp kept), if_pos more, k]

/-- With blocks left, a FORMAT or REBLANK job joins the next. -/
theorem nextAction_blanking (h : s.su.jobs = j :: rest) (kept : j.cancelRequested = false)
    (more : j.position < j.first + j.count) (k : j.kind ≠ .scrub) : nextAction s = joinSweep s := by
  unfold nextAction
  rw [h]
  dsimp only
  rw [if_neg (Bool.eq_false_iff.mp kept), if_pos more]
  cases hk : j.kind with
  | scrub => exact absurd hk k
  | format => rfl
  | reblank => rfl

theorem nextAction_scrub_last (h : s.su.jobs = j :: rest) (kept : j.cancelRequested = false)
    (last : j.first + j.count ≤ j.position) (k : j.kind = .scrub) : nextAction s = endHeadJob .sweepDone none s := by
  unfold nextAction
  rw [h]
  dsimp only
  rw [if_neg (Bool.eq_false_iff.mp kept), if_neg (Nat.not_lt.mpr last), k]

/-- After its last block, a FORMAT or REBLANK job is FINISHING. -/
theorem nextAction_blanking_last (h : s.su.jobs = j :: rest) (kept : j.cancelRequested = false)
    (last : j.first + j.count ≤ j.position) (k : j.kind ≠ .scrub) :
    nextAction s = makeFlush .job (some j.region)
      (s.withJobs ({ j with state := .finishing, step := .none } :: rest)) := by
  have finishes : nextAction s = startFinishing j.region s := by
    unfold nextAction
    rw [h]
    dsimp only
    rw [if_neg (Bool.eq_false_iff.mp kept), if_neg (Nat.not_lt.mpr last)]
    cases hk : j.kind with
    | scrub => exact absurd hk k
    | format => rfl
    | reblank => rfl
  rw [finishes, startFinishing, updHeadJob_cons h]

theorem startPacing_zero (h : s.su.pacing = 0) : startPacing s = joinSweep s := if_pos h

theorem startPacing_timed (h : s.su.jobs = j :: rest) (timed : s.su.pacing ≠ 0) :
    startPacing s = { s with su := { s.su with
      jobs := { j with step := .pacing } :: rest, pacingTimer := some s.su.pacing } } := by
  have step := setStep_cons (s := s.withSu { s.su with pacingTimer := some s.su.pacing }) h .pacing
  exact (if_neg timed).trans step
end

/-- A job's end flush whose last key leaves it ends the job. -/
theorem leaveFlushes_lastOfJob {s : State} {key : RegionId × Nat} {scope : Option RegionId} {d : Nat} (lost : Bool)
    (h : s.tc.flushes = [⟨.job, scope, [key], d⟩]) :
    leaveFlushes key lost s =
      endHeadJob .sweepDone (some (d + if lost then 1 else 0)) { s with tc := { s.tc with flushes := [] } } := by
  have dropped : FlushRequest.drop key lost ⟨.job, scope, [key], d⟩ = ⟨.job, scope, [], d + if lost then 1 else 0⟩ := by
    simp [FlushRequest.drop, bit]
  unfold leaveFlushes
  rw [h, List.map_singleton, dropped]
  rfl

/-! ## The pacing timer (R126) -/

theorem exec_pacingTimerExpiry_stopped {s : State} (h : s.su.pacingTimer = none) : exec .pacingTimerExpiry s = .next s :=
  congrArg Host.Outcome.next (if_neg (by simp [h]))

theorem exec_pacingTimerExpiry_running {s : State} {n : Nat} (h : s.su.pacingTimer = some n) :
    exec .pacingTimerExpiry s = .next (run (joinSweep (stopPacing s))) :=
  congrArg Host.Outcome.next (if_pos (by simp [h]))

/-- Settles O48: the timer's expiry, the job and frontier past a block, and the next action by the job's kind and position. -/
theorem pacingExpiryJoinsTheNextBlock : Obligations.PacingExpiryJoinsTheNextBlock := by
  refine ⟨fun s => ⟨exec_pacingTimerExpiry_stopped, fun n j rest hn h => ?_⟩,
    fun s j j' rest e gs h hskip hdone hkept hformat => ?_,
    fun s j rest h => ⟨nextAction_cancelled h, fun kept more => ⟨fun k timed => ?_, fun k => ?_⟩,
      fun kept last => ⟨nextAction_scrub_last h kept last, fun k f ls hf hls => ?_⟩,
      fun line d lost scope => leaveFlushes_lastOfJob lost, fun kd d el hel => ⟨?_, fun next more hrest queued => ?_⟩⟩⟩
  · rw [exec_pacingTimerExpiry_running hn, joinSweep_cons (s := stopPacing s) h]
    rfl
  · have passed : j.passed e = j' := by
      cases e with
      | skipped => exact (hskip rfl).symm
      | done err => exact (hdone err rfl).symm
    rw [endBlock_cons h, passed]
    by_cases k : j.kind = .format
    · rw [advanceFrontier_format k, hformat k]
      rfl
    · rw [advanceFrontier_other k, hkept k]
      rfl
  · rw [nextAction_scrub h kept more k, startPacing_timed h timed]
  · rw [← joinSweep_cons h]
    by_cases scrub : j.kind = .scrub
    · rw [nextAction_scrub h kept more scrub, startPacing_zero (k.resolve_left (absurd scrub))]
    · exact nextAction_blanking h kept more scrub
  · have finishing : s.withJobs ({ j with state := .finishing, step := .none } :: rest) = f := hf.symm
    have lines : f.tc.flushable (some j.region) = ls := by
      rw [hls, flushable_eq, hf]
      refine List.filter_congr fun l _ => congrArg _ ?_
      show (s.line l).key.any _ = _
      cases (s.line l).key with
      | none => rfl
      | some key => exact BEq.comm
    rw [nextAction_blanking_last h kept last k, finishing]
    subst lines
    refine ⟨makeFlush_nil, fun some => ?_⟩
    rw [makeFlush_cons some, hf]
    rfl
  · rintro rfl
    rw [endHeadJob_last h, hel]
    rfl
  · subst hrest
    rw [endHeadJob_next h queued, hel]
    rfl

end Sys2Proof.Machine
end

section
/-! PROOFS. FORMAT (R116) and CANCEL SWEEP with the cancellation of a job by its state (R120, R129). -/

namespace Sys2Proof.Machine

/-! ## Commands of the Sweep Unit as they end -/

/-- A command that ends with nothing but its result sets off nothing. -/
theorem run_ended {s : State} (work : s.work = []) (code : ResultCode) : run (s.ended code) = s.ended code :=
  run_quiet _ work rfl

theorem queueFull_iff (s : State) : queueFull s = true ↔ 4 ≤ s.su.jobs.length := decide_eq_true_iff

/-- One byte written at offset 0. -/
theorem writeAt_singleton {n : Nat} [NeZero n] (b : Byte) (v : Vector Byte n) : writeAt 0 [b] v = vset v 0 b := by
  refine vector_ext_vget fun k => ?_
  rw [vget_writeAt_zero, vget_vset]
  by_cases h : k = 0
  · rw [if_pos h.symm, h]
    rfl
  · have past : k.val ≠ 0 := fun e => h (Fin.ext e)
    rw [if_neg (Ne.symm h), List.getElem?_eq_none (by simp; omega)]
    rfl

/-! ## FORMAT (R23, R116) -/

theorem nextEpoch_eq {e e' : Epoch} (h : e'.toNat = if e.toNat = 127 then 1 else (e.toNat + 1) % 128) : nextEpoch e = e' := by
  refine BitVec.eq_of_toNat_eq ?_
  rw [h, nextEpoch]
  by_cases last : e = 127
  · rw [if_pos last, if_pos (by rw [last]; rfl)]
    rfl
  · have other : e.toNat ≠ 127 := fun k => last (BitVec.eq_of_toNat_eq k)
    rw [if_neg last, if_neg other, BitVec.toNat_add]
    rfl

section
variable {s : State} {r : RegionId}

theorem formatRegion_refused (h : (s.region r).state ≠ .online) : formatRegion r s = finishCommand .refusedState s := if_pos h

theorem formatRegion_full (h : (s.region r).state = .online) (full : 4 ≤ s.su.jobs.length) :
    formatRegion r s = finishCommand .queueFull s :=
  (if_neg (Decidable.not_not.mpr h)).trans (if_pos ((queueFull_iff s).mpr full))

theorem formatRegion_accepted (h : (s.region r).state = .online) (room : s.su.jobs.length < 4) :
    formatRegion r s = acceptFormat r s :=
  (if_neg (Decidable.not_not.mpr h)).trans (if_neg (mt (queueFull_iff s).mp (Nat.not_le.mpr room)))
end

/-- Settles O42: the refusals of R116 in their order, then its one event of acceptance. -/
theorem formatStartsANewEpoch : Obligations.FormatStartsANewEpoch := by
  intro s hs work
  have handed (r : RegionId) (hr : s.param 0 1 = r.val) :
      exec .format s = .next (run (formatRegion r (handOver 0x0D s.acked))) := by
    rw [exec_format s hs, cmdFormat, onRegion_some 0x0D hr]
  refine ⟨fun h16 => ?_, fun r hr => ⟨fun hne => ?_, fun online => ⟨fun full => ?_, fun room e he => ?_⟩⟩⟩
  · rw [exec_format s hs, cmdFormat, onRegion_none 0x0D h16, run_ended work]
  · rw [handed r hr, formatRegion_refused (by exact hne)]
    exact congrArg _ (run_ended work _)
  · rw [handed r hr, formatRegion_full (by exact online) (by exact full)]
    exact congrArg _ (run_ended work _)
  · rw [handed r hr, formatRegion_accepted (by exact online) (by exact room), ← nextEpoch_eq he, ← writeAt_singleton]
    rfl

/-! ## A job cancelled by its state (R129) -/

section
variable {p : Job → Bool}

/-- Jobs not named stay as they are. -/
theorem cancelFold_unnamed {js : List Job} (h : ∀ j ∈ js, p j = false) (kept : List Job) (s : State) :
    js.foldl (cancelStep p) (kept, s) = (kept ++ js, s) := by
  induction js generalizing kept with
  | nil => rw [List.append_nil]; rfl
  | cons j js ih =>
    have step : cancelStep p (kept, s) j = (kept ++ [j], s) := if_pos (by rw [h j List.mem_cons_self]; rfl)
    rw [List.foldl_cons, step, ih fun i hi => h i (List.mem_cons_of_mem _ hi), List.append_assoc]
    rfl

variable {s t : State} {front back : List Job} {j : Job}

/-- The one job named is looked at where it stands in the queue. -/
theorem cancelFold_one (jobs : s.su.jobs = front ++ j :: back) (named : p j = true)
    (others : ∀ k ∈ front ++ back, p k = false) :
    s.su.jobs.foldl (cancelStep p) ([], s) =
      back.foldl (cancelStep p) (if (cancelJob j s).2 then (front ++ [{ j with cancelRequested := true }], (cancelJob j s).1)
        else (front, offer (jobRecord .sweepCancelled j none) (cancelJob j s).1)) := by
  have step : cancelStep p (front, s) j = if (cancelJob j s).2
      then (front ++ [{ j with cancelRequested := true }], (cancelJob j s).1)
      else (front, offer (jobRecord .sweepCancelled j none) (cancelJob j s).1) := if_neg (by rw [named]; exact nofun)
  rw [jobs, List.foldl_append, cancelFold_unnamed fun k hk => others k (List.mem_append_left _ hk), List.nil_append,
    List.foldl_cons, step]

/-- A job that works its block stays, asked to stop. -/
theorem cancelJobs_asked (jobs : s.su.jobs = front ++ j :: back) (named : p j = true)
    (others : ∀ k ∈ front ++ back, p k = false) (cancelled : cancelJob j s = (t, true)) :
    cancelJobs p s = startNext (t.withJobs (front ++ { j with cancelRequested := true } :: back)) := by
  have unnamed : ∀ k ∈ back, p k = false := fun k hk => others k (List.mem_append_right _ hk)
  unfold cancelJobs
  rw [cancelFold_one jobs named others, cancelled, if_pos rfl, cancelFold_unnamed unnamed, List.append_assoc]
  rfl

/-- A job that works no block leaves the queue, its end posted, and the next starts if none runs. -/
theorem cancelJobs_ended (jobs : s.su.jobs = front ++ j :: back) (named : p j = true)
    (others : ∀ k ∈ front ++ back, p k = false) (cancelled : cancelJob j s = (t, false)) :
    cancelJobs p s = startNext ((offer (jobRecord .sweepCancelled j none) t).withJobs (front ++ back)) := by
  have unnamed : ∀ k ∈ back, p k = false := fun k hk => others k (List.mem_append_right _ hk)
  unfold cancelJobs
  rw [cancelFold_one jobs named others, cancelled, if_neg nofun, cancelFold_unnamed unnamed]

theorem cancelJob_queued (h : j.state = .queued) : cancelJob j s = (s, false) := by
  unfold cancelJob
  rw [h]

theorem cancelJob_finishing (h : j.state = .finishing) : cancelJob j s = (withdrawJobFlush s, false) := by
  unfold cancelJob
  rw [h]

theorem cancelJob_working (h : j.state = .running) (k : j.step = .working) : cancelJob j s = (s, true) := by
  unfold cancelJob
  rw [h, k]

theorem cancelJob_pacing (h : j.state = .running) (k : j.step = .pacing) : cancelJob j s = (stopPacing s, false) := by
  unfold cancelJob
  rw [h, k]

theorem cancelJob_waiting (h : j.state = .running) (k : j.step = .waiting) :
    cancelJob j s = (leaveBlocks .sweep s, false) := by
  unfold cancelJob
  rw [h, k]

/-- A queued job behind a running one leaves the queue. -/
theorem cancelJobs_queued {h : Job} {rest : List Job} (jobs : s.su.jobs = h :: rest ++ j :: back) (named : p j = true)
    (others : ∀ k ∈ h :: rest ++ back, p k = false) (started : h.state ≠ .queued) (queued : j.state = .queued) :
    cancelJobs p s = { s with
      su := { s.su with jobs := h :: rest ++ back }, el := s.el.offer (jobRecord .sweepCancelled j none) } := by
  rw [cancelJobs_ended jobs named others (cancelJob_queued queued), startNext_started rfl started]
  rfl

/-- A job that works its block is asked to stop. -/
theorem cancelJobs_working (jobs : s.su.jobs = j :: back) (named : p j = true) (others : ∀ k ∈ back, p k = false)
    (running : j.state = .running) (working : j.step = .working) :
    cancelJobs p s = { s with su := { s.su with jobs := { j with cancelRequested := true } :: back } } := by
  have started : j.state ≠ .queued := by rw [running]; exact nofun
  rw [cancelJobs_asked (front := []) jobs named others (cancelJob_working running working),
    startNext_started (j := { j with cancelRequested := true }) rfl started]
  rfl

/-- The only job of the queue, PACING, ends, and the pacing timer stops. -/
theorem cancelJobs_pacing (jobs : s.su.jobs = [j]) (named : p j = true) (running : j.state = .running)
    (pacing : j.step = .pacing) :
    cancelJobs p s = { s with
      su := { s.su with jobs := [], pacingTimer := none }, el := s.el.offer (jobRecord .sweepCancelled j none) } := by
  rw [cancelJobs_ended (front := []) jobs named nofun (cancelJob_pacing running pacing), startNext_nil rfl]
  rfl

/-- The only job of the queue, FINISHING, ends, and its flush request is withdrawn. -/
theorem cancelJobs_finishing (jobs : s.su.jobs = [j]) (named : p j = true) (finishing : j.state = .finishing) :
    cancelJobs p s = { s with
      su := { s.su with jobs := [] }, el := s.el.offer (jobRecord .sweepCancelled j none)
      tc := { s.tc with flushes := s.tc.flushes.filter fun f => f.maker != .job } } := by
  rw [cancelJobs_ended (front := []) jobs named nofun (cancelJob_finishing finishing), startNext_nil rfl]
  rfl

/-- The only job of the queue, WAITING, ends, and leaves its place at its block. -/
theorem cancelJobs_waiting (jobs : s.su.jobs = [j]) (named : p j = true) (running : j.state = .running)
    (waiting : j.step = .waiting) :
    cancelJobs p s = { leaveBlocks .sweep s with
      su := { s.su with jobs := [] }, el := s.el.offer (jobRecord .sweepCancelled j none) } := by
  rw [cancelJobs_ended (front := []) jobs named nofun (cancelJob_waiting running waiting), startNext_nil rfl]
  rfl
end

/-! ## CANCEL SWEEP (R120) -/

section
variable {c : Command} {s : State}

theorem jobOf_none {u : SweepUnit} {i : BitVec 8} (h : ∀ j ∈ u.jobs, j.id ≠ i) : u.jobOf i = none :=
  List.find?_eq_none.mpr fun j hj => by simpa using h j hj

theorem jobOf_some {u : SweepUnit} {front back : List Job} {j : Job} (jobs : u.jobs = front ++ j :: back)
    (others : ∀ k ∈ front ++ back, k.id ≠ j.id) : u.jobOf j.id = some j := by
  unfold SweepUnit.jobOf
  rw [jobs, List.find?_append, List.find?_eq_none.mpr fun k hk => by simpa using others k (List.mem_append_left _ hk)]
  simp

theorem cmdCancelSweep_unknown (h : c.byteAt 0 = 0 ∨ s.su.jobOf (c.byteAt 0) = none) :
    cmdCancelSweep c s = finishCommand .refusedParam s := by
  unfold cmdCancelSweep
  split
  · rfl
  · next named => rw [h.resolve_left named]

theorem cmdCancelSweep_known {j : Job} (named : c.byteAt 0 ≠ 0) (known : s.su.jobOf (c.byteAt 0) = some j) :
    cmdCancelSweep c s = if j.kind = .format then finishCommand .refusedState s
      else run (cancelJobs (·.id == c.byteAt 0) (finishCommand .doneOk s)) := by
  unfold cmdCancelSweep
  rw [if_neg named, known]
end

/-- Settles O45: the ID looked up in the queue, then the job cancelled by its state. -/
theorem cancelSweepEndsTheJobByItsState : Obligations.CancelSweepEndsTheJobByItsState := by
  intro s hs work
  have lt : s.param 0 1 < 256 := by rw [param_one]; exact BitVec.isLt _
  have id_eq (i : BitVec 8) : BitVec.ofNat 8 (s.param 0 1) = i ↔ i.toNat = s.param 0 1 := by
    rw [← BitVec.toNat_inj, BitVec.toNat_ofNat, Nat.mod_eq_of_lt lt, eq_comm]
  rw [exec_cancelSweep s hs]
  refine ⟨fun unknown => congrArg _ (cmdCancelSweep_unknown ?_), fun front back j jobs nonzero hid others => ?_⟩
  · rw [byteAt_param, id_eq]
    exact unknown.imp Eq.symm fun h => jobOf_none fun j hj e => h j hj ((id_eq j.id).mp e.symm)
  · have named : (⟨0x10, s.mp.params⟩ : Command).byteAt 0 = j.id := by rw [byteAt_param, (id_eq j.id).mpr hid]
    have known := cmdCancelSweep_known (c := ⟨0x10, s.mp.params⟩) (s := handOver 0x10 s.acked) (j := j)
      (by rw [named]; rintro e; exact nonzero (by rw [← hid, e]; rfl)) (by rw [named]; exact jobOf_some jobs others)
    rw [named] at known
    rw [known]
    refine ⟨fun format => congrArg _ (if_pos format), fun k => ?_⟩
    rw [if_neg k, finish_handOver]
    have self : (fun k : Job => k.id == j.id) j = true := beq_self_eq_true j.id
    have other : ∀ k ∈ front ++ back, (fun k : Job => k.id == j.id) k = false := fun k hk => beq_false_of_ne (others k hk)
    refine ⟨rfl, fun h rest hfront started queued => ?_, fun hfront running working => ?_, fun hfront hback running pacing => ?_,
      fun hfront hback finishing => ?_, fun hfront hback running waiting => ?_⟩
    · subst hfront
      rw [cancelJobs_queued (s := s.ended .doneOk) jobs self other started queued]
      exact congrArg Host.Outcome.next (run_quiet _ work rfl)
    · subst hfront
      rw [cancelJobs_working (s := s.ended .doneOk) jobs self other running working]
      exact congrArg Host.Outcome.next (run_quiet _ work rfl)
    · subst hfront hback
      rw [cancelJobs_pacing (s := s.ended .doneOk) jobs self running pacing]
      exact congrArg Host.Outcome.next (run_quiet _ work rfl)
    · subst hfront hback
      rw [cancelJobs_finishing (s := s.ended .doneOk) jobs self finishing]
      exact congrArg Host.Outcome.next (run_quiet _ work rfl)
    · subst hfront hback
      rw [cancelJobs_waiting (s := s.ended .doneOk) jobs self running waiting]
      rfl

end Sys2Proof.Machine
end

section
/-! PROOFS. SCRUB and REBLANK as commands (R115, R117, R118). -/

namespace Sys2Proof.Machine

/-! ## SCRUB and REBLANK (R117, R118) -/

section
variable {k : JobKind} {c : Command} {r : RegionId} {s : State}

theorem queueRange_badParam (h : c.field 5 4 = 0 ∨ (s.region r).blockCount < c.field 1 4 + c.field 5 4) :
    queueRange k c r s = finishCommand .refusedParam s := if_pos h

section
variable (nonzero : c.field 5 4 ≠ 0) (fits : c.field 1 4 + c.field 5 4 ≤ (s.region r).blockCount)
include nonzero fits

theorem queueRange_full (full : 4 ≤ s.su.jobs.length) : queueRange k c r s = finishCommand .queueFull s :=
  (if_neg (by omega)).trans (if_pos ((queueFull_iff s).mpr full))

theorem queueRange_accepted (room : s.su.jobs.length < 4) :
    queueRange k c r s = startNext (finishCommand .doneOk
      (writeResults 0 [s.su.idToGive] (acceptJob k r (c.field 1 4) (c.field 5 4) none s))) :=
  (if_neg (by omega)).trans (if_neg (mt (queueFull_iff s).mp (Nat.not_le.mpr room)))

/-- Behind a running job the job waits its turn. -/
theorem queueRange_behind {j : Job} {rest : List Job} (jobs : s.su.jobs = j :: rest) (room : s.su.jobs.length < 4)
    (started : j.state ≠ .queued) :
    queueRange k c r s = finishCommand .doneOk (writeResults 0 [s.su.idToGive] { s with
      su := s.su.accept k r (c.field 1 4) (c.field 5 4) none }) := by
  have head : (s.su.accept k r (c.field 1 4) (c.field 5 4) none).jobs =
      j :: (rest ++ [Job.new s.su.idToGive k r (c.field 1 4) (c.field 5 4) none]) := by
    rw [SweepUnit.accept, jobs]
    rfl
  rw [queueRange_accepted nonzero fits room, startNext_started head started]
  rfl

/-- Alone in the queue the job starts, and joins its first block. -/
theorem queueRange_alone (jobs : s.su.jobs = []) :
    queueRange k c r s = finishCommand .doneOk (writeResults 0 [s.su.idToGive] { s with
      su := { s.su.accept k r (c.field 1 4) (c.field 5 4) none with
        jobs := [{ Job.new s.su.idToGive k r (c.field 1 4) (c.field 5 4) none with state := .running, step := .waiting }] }
      obt := { s.obt with
        entries := joinEntries .sweep (if k = .scrub then .shared else .exclusive) r (c.field 1 4) s.obt.entries }
      work := s.work ++ [.grant r (c.field 1 4)] }) := by
  have head : (s.su.accept k r (c.field 1 4) (c.field 5 4) none).jobs =
      [Job.new s.su.idToGive k r (c.field 1 4) (c.field 5 4) none] := by
    rw [SweepUnit.accept, jobs]
    rfl
  rw [queueRange_accepted nonzero fits (by simp [jobs]), startNext_queued head rfl]
  rfl
end

end

/-! ## The two commands on a range (R117, R118) -/

section
variable {i : Instr} {k : JobKind} {s : State} (hs : s.takesCommand)
  (hi : (i = .scrub ∧ k = .scrub) ∨ (i = .reblank ∧ k = .reblank))
include hs hi

theorem exec_range_noRegion (work : s.work = []) (h : 16 ≤ s.param 0 1) : exec i s = .next (s.ended .refusedParam) := by
  obtain ⟨rfl, rfl⟩ | ⟨rfl, rfl⟩ := hi
  · rw [exec_scrub s hs, cmdScrub, onRegion_none 0x0E h, run_ended work]
  · rw [exec_reblank s hs, cmdReblank, onRegion_none 0x0F h, run_ended work]

variable {r : RegionId} (hr : s.param 0 1 = r.val)
include hr

/-- SCRUB wants the region ONLINE, REBLANK ONLINE or FORMATTING. -/
theorem exec_range_refused (work : s.work = []) (offline : (s.region r).state ≠ .online)
    (other : k = .scrub ∨ (s.region r).state ≠ .formatting) : exec i s = .next (s.ended .refusedState) := by
  obtain ⟨rfl, rfl⟩ | ⟨rfl, rfl⟩ := hi
  · have refused : scrubRegion ⟨0x0E, s.mp.params⟩ r (handOver 0x0E s.acked) = s.ended .refusedState := if_pos offline
    rw [exec_scrub s hs, cmdScrub, onRegion_some 0x0E hr, refused, run_ended work]
  · have closed : (s.region r).state.admits = false := by
      rw [Bool.eq_false_iff, ne_eq, RegionState.admits_iff]
      exact not_or_intro offline (other.resolve_left nofun)
    have refused : reblankRegion ⟨0x0F, s.mp.params⟩ r (handOver 0x0F s.acked) = s.ended .refusedState :=
      if_pos (by rw [handOver_region, acked_region, closed]; rfl)
    rw [exec_reblank s hs, cmdReblank, onRegion_some 0x0F hr, refused, run_ended work]

variable (serving : (s.region r).state = .online ∨ (k = .reblank ∧ (s.region r).state = .formatting))
include serving

theorem exec_range_taken : ∃ code : Byte,
    exec i s = .next (run (queueRange k ⟨code, s.mp.params⟩ r (handOver code s.acked))) := by
  obtain ⟨rfl, rfl⟩ | ⟨rfl, rfl⟩ := hi
  · have online : (s.region r).state = .online := serving.resolve_right nofun
    have taken : scrubRegion ⟨0x0E, s.mp.params⟩ r (handOver 0x0E s.acked) =
        queueRange .scrub ⟨0x0E, s.mp.params⟩ r (handOver 0x0E s.acked) := if_neg (not_not_intro online)
    exact ⟨0x0E, by rw [exec_scrub s hs, cmdScrub, onRegion_some 0x0E hr, taken]⟩
  · have admits : (s.region r).state.admits = true := (RegionState.admits_iff _).mpr (serving.imp_right And.right)
    have taken : reblankRegion ⟨0x0F, s.mp.params⟩ r (handOver 0x0F s.acked) =
        queueRange .reblank ⟨0x0F, s.mp.params⟩ r (handOver 0x0F s.acked) :=
      if_neg (by rw [handOver_region, acked_region, admits]; exact nofun)
    exact ⟨0x0F, by rw [exec_reblank s hs, cmdReblank, onRegion_some 0x0F hr, taken]⟩

variable (work : s.work = [])
include work

theorem exec_range_badParam (h : s.param 5 4 = 0 ∨ (s.region r).blockCount < s.param 1 4 + s.param 5 4) :
    exec i s = .next (s.ended .refusedParam) := by
  obtain ⟨code, taken⟩ := exec_range_taken hs hi hr serving
  rw [taken, queueRange_badParam (c := ⟨code, s.mp.params⟩) (s := handOver code s.acked) h, finish_handOver, run_ended work]

variable (nonzero : s.param 5 4 ≠ 0) (fits : s.param 1 4 + s.param 5 4 ≤ (s.region r).blockCount)
include nonzero fits

theorem exec_range_full (full : 4 ≤ s.su.jobs.length) : exec i s = .next (s.ended .queueFull) := by
  obtain ⟨code, taken⟩ := exec_range_taken hs hi hr serving
  rw [taken, queueRange_full (c := ⟨code, s.mp.params⟩) (s := handOver code s.acked) nonzero fits full, finish_handOver,
    run_ended work]

theorem exec_range_behind {j : Job} {rest : List Job} (jobs : s.su.jobs = j :: rest) (room : s.su.jobs.length < 4)
    (started : j.state ≠ .queued) :
    exec i s = .next { s.ended .doneOk with
      su := s.su.accept k r (s.param 1 4) (s.param 5 4) none
      mp := { (s.ended .doneOk).mp with results := vset s.mp.results 0 s.su.idToGive } } := by
  obtain ⟨code, taken⟩ := exec_range_taken hs hi hr serving
  rw [taken, queueRange_behind (c := ⟨code, s.mp.params⟩) (s := handOver code s.acked) nonzero fits jobs room started,
    ← writeAt_singleton, run_quiet _ (by exact work) rfl]
  rfl

theorem exec_range_alone (jobs : s.su.jobs = []) :
    exec i s = .next (run { s.ended .doneOk with
      su := { s.su.accept k r (s.param 1 4) (s.param 5 4) none with
        jobs := [{ Job.new s.su.idToGive k r (s.param 1 4) (s.param 5 4) none with state := .running, step := .waiting }] }
      obt := { s.obt with
        entries := joinEntries .sweep (if k = .scrub then .shared else .exclusive) r (s.param 1 4) s.obt.entries }
      mp := { (s.ended .doneOk).mp with results := vset s.mp.results 0 s.su.idToGive }
      work := [.grant r (s.param 1 4)] }) := by
  obtain ⟨code, taken⟩ := exec_range_taken hs hi hr serving
  have first : [Task.grant r (s.param 1 4)] = s.work ++ [.grant r (s.param 1 4)] := by rw [work]; rfl
  rw [taken, queueRange_alone (c := ⟨code, s.mp.params⟩) (s := handOver code s.acked) nonzero fits jobs,
    ← writeAt_singleton, first]
  rfl
end

end Sys2Proof.Machine
end

section
/-! PROOFS. The sweep's work on a block: its begin, the tag handed to the job by its kind, and the completions of its reads (R54, R123 to
R125, R127). -/

namespace Sys2Proof.Machine

/-! ## The begin of a block's work (R123) -/

section
variable {s : State} {j : Job} {rest : List Job} {t : Tag}

theorem Job.epochOf_eq {g : Region} {e : Epoch} (own : j.kind = .format → j.formatEpoch = some e)
    (regions : j.kind ≠ .format → e = g.epoch) : j.epochOf g = e := by
  unfold Job.epochOf
  split
  · next e' k f => exact Option.some.inj (f.symm.trans (own k))
  · next other =>
    refine (regions fun k => ?_).symm
    exact other e k (own k)

theorem beginBlock_cons (h : s.su.jobs = j :: rest) {e : Epoch} (own : j.kind = .format → j.formatEpoch = some e)
    (regions : j.kind ≠ .format → e = (s.region j.region).epoch) :
    beginBlock s =
      lookupTag .sweep 0 j.region j.position { s with su := { s.su with work := ⟨e, none, 0, false⟩ } } := by
  unfold beginBlock
  rw [h]
  dsimp only
  rw [Job.epochOf_eq own regions]
  rfl

/-! ## The tag handed to the job (R124, R125, R127) -/

theorem sweepHanded_format (h : s.su.jobs = j :: rest) (k : j.kind = .format) :
    sweepHanded t s = if t.epoch = s.su.work.epoch then endBlock .skipped s else blankBlock j s := by
  unfold sweepHanded
  rw [h]
  dsimp only
  rw [k]

theorem sweepHanded_scrub (h : s.su.jobs = j :: rest) (k : j.kind = .scrub) : sweepHanded t s = scrubHanded j t s := by
  unfold sweepHanded
  rw [h]
  dsimp only
  rw [k]

theorem sweepHanded_reblank (h : s.su.jobs = j :: rest) (k : j.kind = .reblank) : sweepHanded t s = blankBlock j s := by
  unfold sweepHanded
  rw [h]
  dsimp only
  rw [k]

/-- A block whose tag a FORMAT job finds of another epoch, and any block of a REBLANK job, is blanked. -/
theorem sweepHanded_blanks (h : s.su.jobs = j :: rest)
    (k : j.kind = .reblank ∨ (j.kind = .format ∧ t.epoch ≠ s.su.work.epoch)) : sweepHanded t s = blankBlock j s := by
  obtain reblank | ⟨format, other⟩ := k
  · exact sweepHanded_reblank h reblank
  · rw [sweepHanded_format h format, if_neg other]

theorem blankTag_eq (g : Region) (b : Nat) (e : Epoch) :
    blankTag g b e = ⟨0, BitVec.ofNat 16 (b + g.seed.toNat), g.label, true, e⟩ := by
  rw [blankTag, locatorOf_eq]

theorem blankBlock_writeBack (h : (s.region j.region).tagPolicy = .writeBack) :
    blankBlock j s = endBlock (.done false)
      (tagUpdate .sweep 0 j.region j.position (blankTag (s.region j.region) j.position s.su.work.epoch) s) := by
  unfold blankBlock
  rw [h]

theorem blankBlock_writeThrough (h : (s.region j.region).tagPolicy = .writeThrough) :
    blankBlock j s =
      tagUpdate .sweep 0 j.region j.position (blankTag (s.region j.region) j.position s.su.work.epoch) s := by
  unfold blankBlock
  rw [h]

theorem tagReport_eq (g : Region) (e : Epoch) (b : Nat) (t : Tag) :
    tagReport g e b t = ⟨t, e, BitVec.ofNat 16 (b + g.seed.toNat), g.label⟩ := by
  rw [tagReport, locatorOf_eq]

/-- A scrub's report: the integrity record, and the failure told to the Region Unit. -/
theorem reportScrub_eq (v : Verdict) (bytes : List Byte) :
    reportScrub j v t bytes s = healthReport .sweep j.region j.position none { s with
      el := s.el.offer { Record.plain v.recordKind .sweep with
        region := some j.region, block := some j.position, expectedGuard := guardFor v bytes
        tags := some ⟨t, s.su.work.epoch, BitVec.ofNat 16 (j.position + (s.region j.region).seed.toNat),
          (s.region j.region).label⟩ } } := by
  rw [reportScrub, tagReport_eq]
  rfl

theorem scrubHanded_blank (h : tagEvaluation (s.region j.region) s.su.work.epoch j.position t = .blank) :
    scrubHanded j t s = endBlock (.done false) s := by
  unfold scrubHanded
  rw [h]

theorem scrubHanded_sound (h : tagEvaluation (s.region j.region) s.su.work.epoch j.position t = .sound) :
    scrubHanded j t s = scrubRead j t s := by
  unfold scrubHanded
  rw [h]

/-- A tag that fails its evaluation is reported, and ends the work with an error. -/
theorem scrubHanded_failure {v : Verdict} (h : tagEvaluation (s.region j.region) s.su.work.epoch j.position t = v)
    (failure : v.isFailure = true) : scrubHanded j t s = endBlock (.done true) (reportScrub j v t [] s) := by
  unfold scrubHanded
  rw [h]
  cases v with
  | sound => cases failure
  | blank => cases failure
  | stale => rfl
  | misplaced => rfl
  | foreign => rfl
  | corrupt => rfl

/-- A SOUND tag takes the sweep buffer, and the whole block is read in the SWEEP class. -/
theorem scrubRead_eq :
    scrubRead j t s = { s with
      obt := { s.obt with sweepBuffer := { s.obt.sweepBuffer with assigned := true } }
      su := { s.su with work := { s.su.work with tag := some t, readsOut := (s.region j.region).blockSize / 256 } }
      ma := { s.ma with sweepQueue := s.ma.sweepQueue ++ (List.range ((s.region j.region).blockSize / 256)).map fun n =>
        { kind := .dataRead, cls := .sweep
          address := (s.region j.region).base + j.position * (s.region j.region).blockSize + 256 * n, length := 256
          data := [], enables := [], issuer := .sweepRead (256 * n)
          key := ⟨some j.region, some j.position, none, none⟩, inReset := false } } } := by
  unfold scrubRead
  rw [appendRequests_sweep]
  · rfl
  · intro q hq
    obtain ⟨n, -, rfl⟩ := List.mem_map.mp hq
    rfl

/-! ## The reads of a scrubbed block (R125) -/

theorem scrubTake_ok {n : Nat} {data : List Byte} (sofar : s.su.work.failed = false) :
    scrubTake j n true data s = { s with
      obt := { s.obt with
        sweepBuffer := { s.obt.sweepBuffer with bytes := overlay n data s.obt.sweepBuffer.bytes } } } := by
  unfold scrubTake
  rw [if_neg (Bool.eq_false_iff.mp sofar), if_pos rfl]
  rfl

/-- A read's failure is posted once per block. -/
theorem scrubTake_failed {n : Nat} {ok : Bool} {data : List Byte} (failed : ok = false ∨ s.su.work.failed = true) :
    scrubTake j n ok data s = { s with
      su := { s.su with work := { s.su.work with failed := true } }
      el := if s.su.work.failed then s.el else s.el.offer { Record.plain .memoryRead .sweep with
        region := some j.region, block := some j.position } } := by
  unfold scrubTake
  by_cases before : s.su.work.failed = true
  · have same : { s.su.work with failed := true } = s.su.work := by rw [← before]
    rw [if_pos before, if_pos before, same]
  · rw [if_neg before, if_neg before, failed.resolve_right before, if_neg nofun]
    rfl

theorem scrubCount_more (more : s.su.work.readsOut ≠ 1) :
    scrubCount j s = { s with su := { s.su with work := { s.su.work with readsOut := s.su.work.readsOut - 1 } } } :=
  if_neg more

theorem scrubCount_last (last : s.su.work.readsOut = 1) :
    scrubCount j s = scrubDone j { s with su := { s.su with work := { s.su.work with readsOut := 0 } } } := if_pos last

theorem scrubDone_failed (failed : s.su.work.failed = true) : scrubDone j s = endBlock (.done true) s := if_pos failed

/-- At the last read the guard is checked over the whole block. -/
theorem scrubDone_checked (sofar : s.su.work.failed = false) (tag : s.su.work.tag = some t) :
    scrubDone j s =
      if crc (sweepBlock s (s.region j.region).blockSize) = t.guard then endBlock (.done false) s
      else endBlock (.done true) (reportScrub j .corrupt t (sweepBlock s (s.region j.region).blockSize) s) := by
  unfold scrubDone
  rw [if_neg (Bool.eq_false_iff.mp sofar), tag]
  dsimp only
  unfold dataEvaluation
  split <;> rfl

theorem sweepReadDone_cons (h : s.su.jobs = j :: rest) (n : Nat) (ok : Bool) (data : List Byte) :
    sweepReadDone n ok data s = scrubCount j (scrubTake j n ok data s) := by
  unfold sweepReadDone
  rw [h]

/-- The response to a sweep read frees its tag and is handed to the job (R163). -/
theorem exec_downstreamResponse_sweepRead {d : DownTagId} {q : Request} {ok : Bool} {data : List Byte} {n : Nat}
    (porst : s.pins.porst = false) (inFlight : (s.downTag d).state = .inFlight) (request : (s.downTag d).request = some q)
    (issuer : q.issuer = .sweepRead n) (kind : q.kind = .dataRead) (jobs : s.su.jobs = j :: rest)
    (length : ok = true → data.length = q.length) :
    exec (.downstreamResponse d ok data) s =
      .next (run (scrubCount j (scrubTake j n ok data (s.setDownTag d .powerOn)))) := by
  have taken : responseArrives d ok data s = run (takeResponse d q ok data s) := by
    unfold responseArrives
    rw [if_neg (by simp [porst]), inFlight, request]
  have handed : takeResponse d q ok data s = scrubCount j (scrubTake j n ok data (s.setDownTag d .powerOn)) := by
    cases ok with
    | true =>
      rw [takeResponse_exact d q data s (by rw [kind]; rfl) (length rfl), complete, issuer]
      exact sweepReadDone_cons (s := s.setDownTag d .powerOn) jobs n true data
    | false =>
      have error : takeResponse d q false data s = complete q false [] (s.setDownTag d .powerOn) := rfl
      rw [error, complete, issuer]
      exact sweepReadDone_cons (s := s.setDownTag d .powerOn) jobs n false []
  rw [← handed, ← taken]
  rfl
end

end Sys2Proof.Machine
end

section
/-! PROOFS. A read of a scrubbed block stored and counted off (R125), the completion of the sweep's write-through tag write (R102, R124,
R127), and the sweep's statement as a whole. -/

namespace Sys2Proof.Machine

/-! ## A read stored and counted off (R125) -/

section
variable {s : State} {j : Job} {n : Nat} {data : List Byte}

theorem scrubRead_stored (sofar : s.su.work.failed = false) (more : s.su.work.readsOut ≠ 1) :
    scrubCount j (scrubTake j n true data s) = { s with
      obt := { s.obt with
        sweepBuffer := { s.obt.sweepBuffer with bytes := overlay n data s.obt.sweepBuffer.bytes } }
      su := { s.su with work := { s.su.work with readsOut := s.su.work.readsOut - 1 } } } := by
  rw [scrubTake_ok sofar]
  exact scrubCount_more more

/-- The last read of a block without a failure: its bytes stored, the guard is checked. -/
theorem scrubRead_last {tag : Tag} {bytes block : List Byte} {u : State} (sofar : s.su.work.failed = false)
    (last : s.su.work.readsOut = 1) (captured : s.su.work.tag = some tag)
    (stored : bytes = overlay n data s.obt.sweepBuffer.bytes) (whole : block = bytes.take (s.region j.region).blockSize)
    (hu : u = { s with
      obt := { s.obt with sweepBuffer := { s.obt.sweepBuffer with bytes := bytes } }
      su := { s.su with work := { s.su.work with readsOut := 0 } } }) :
    (crc block = tag.guard → scrubCount j (scrubTake j n true data s) = endBlock (.done false) u) ∧
    (crc block ≠ tag.guard → scrubCount j (scrubTake j n true data s) =
      endBlock (.done true) (healthReport .sweep j.region j.position none { u with
        el := s.el.offer { Record.plain .corrupt .sweep with
          region := some j.region, block := some j.position, expectedGuard := some (crc block)
          tags := some ⟨tag, s.su.work.epoch, BitVec.ofNat 16 (j.position + (s.region j.region).seed.toNat),
            (s.region j.region).label⟩ } })) := by
  have counted : scrubCount j (scrubTake j n true data s) = scrubDone j u := by
    rw [scrubTake_ok sofar, ← stored, hu]
    exact scrubCount_last last
  have sofar' : u.su.work.failed = false := by rw [hu]; exact sofar
  have captured' : u.su.work.tag = some tag := by rw [hu]; exact captured
  have whole' : sweepBlock u (u.region j.region).blockSize = block := by rw [hu, whole]; rfl
  rw [counted, scrubDone_checked sofar' captured', whole']
  refine ⟨fun agrees => if_pos agrees, fun differs => (if_neg differs).trans ?_⟩
  rw [reportScrub_eq, hu]
  rfl

/-- A read that fails, or follows one that did: it is counted off, and the last ends the work with an error. -/
theorem scrubRead_failed {ok : Bool} {u : State} (failed : ok = false ∨ s.su.work.failed = true)
    (hu : u = { s with
      su := { s.su with work := { s.su.work with readsOut := s.su.work.readsOut - 1, failed := true } }
      el := if s.su.work.failed then s.el else s.el.offer { Record.plain .memoryRead .sweep with
        region := some j.region, block := some j.position } }) :
    (s.su.work.readsOut ≠ 1 → scrubCount j (scrubTake j n ok data s) = u) ∧
    (s.su.work.readsOut = 1 → scrubCount j (scrubTake j n ok data s) = endBlock (.done true) u) := by
  obtain ⟨t, ht⟩ : ∃ t : State, t = { s with
    su := { s.su with work := { s.su.work with failed := true } }
    el := if s.su.work.failed then s.el else s.el.offer { Record.plain .memoryRead .sweep with
      region := some j.region, block := some j.position } } := ⟨_, rfl⟩
  have taken : scrubTake j n ok data s = t := (scrubTake_failed failed).trans ht.symm
  have failing : t.su.work.failed = true := by rw [ht]
  have left : t.su.work.readsOut = s.su.work.readsOut := by rw [ht]
  rw [taken]
  refine ⟨fun more => ?_, fun last => ?_⟩
  · rw [scrubCount_more (by rw [left]; exact more), ht, hu]
  · rw [scrubCount_last (by rw [left]; exact last), scrubDone_failed (by exact failing), ht, hu, last]
end

/-! ## The line's part of a tag write (R102, R107) -/

section
variable {s : State} {l : LineId}

/-- The last tag write of a DIRTY line without a fault makes it CLEAN; on no flush list, nothing else changes. -/
theorem lineTagWriteOk_clean {r : RegionId} {line : Nat} (key : (s.line l).key = some (r, line))
    (dirty : (s.line l).state = .dirty) (last : (s.line l).through = 1) (noFault : (s.line l).throughFault = false)
    (unlisted : ∀ f ∈ s.tc.flushes, (r, line) ∉ f.keys ∧ f.keys ≠ []) :
    lineTagWriteOk l s = s.updLine l fun x => { x with state := .clean, attempts := 0, through := 0 } := by
  have kept : ((s.updLine l fun x => { x with through := 0 }).line l).key = some (r, line) := by
    rw [updLine_line_same]
    exact key
  unfold lineTagWriteOk becomeClean
  rw [if_pos ⟨dirty, last, by simp [noFault]⟩, kept]
  dsimp only
  rw [updLine_updLine]
  exact leaveFlushes_none _ _ _ unlisted

theorem lineTagWriteOk_dirtied
    (h : ¬ ((s.line l).state = .dirty ∧ (s.line l).through = 1 ∧ (s.line l).throughFault = false)) :
    lineTagWriteOk l s = highWater (demandWriteback l (s.updLine l fun x => { x with through := x.through - 1 })) :=
  if_neg (by simpa using h)

@[simp] theorem issueWriteback_el : (issueWriteback l s).el = s.el := by
  unfold issueWriteback
  split <;> rfl

@[simp] theorem demandWriteback_el : (demandWriteback l s).el = s.el := by
  unfold demandWriteback
  split
  · exact issueWriteback_el
  · rfl

/-- The high-water write-backs post no record. -/
@[simp] theorem highWater_el (s : State) : (highWater s).el = s.el := by
  unfold highWater
  generalize (s.tc.oldestFirst fun x => x.eligible && x.unpinned).take (s.tc.dirtyCount - Config.dirtyHighWater) = ls
  induction ls generalizing s with
  | nil => rfl
  | cons l ls ih => exact (ih _).trans issueWriteback_el

theorem lineTagWriteFail_el : (lineTagWriteFail l s).el = s.el := by
  unfold lineTagWriteFail dirtied
  rw [highWater_el, demandWriteback_el, updLine_el]

/-- The response to a tag write of the sweep: its line takes it, and the block's work ends. -/
theorem exec_downstreamResponse_sweepTag {t : DownTagId} {q : Request} {k : Nat} (ok : Bool) (data : List Byte)
    (porst : s.pins.porst = false) (inFlight : (s.downTag t).state = .inFlight) (request : (s.downTag t).request = some q)
    (issuer : q.issuer = .tagWrite (some l) .sweep k) (kind : q.kind = .tagWrite) :
    exec (.downstreamResponse t ok data) s =
      .next (run (endBlock (.done !ok) (tagWriteDone (some l) q.key ok (s.setDownTag t .powerOn)))) := by
  rw [exec_writeResponse ok data porst inFlight request (by rw [kind]; rfl), complete, issuer]
  rfl
end

/-- Settles O43: the two commands, the begin of a block's work and the tag handed, the reads' completions, and the tag write's. -/
theorem scrubAndReblankAreQueued : Obligations.ScrubAndReblankAreQueued := by
  refine ⟨fun s c k hs work hc => ⟨exec_range_noRegion hs hc work, fun r hr => ⟨exec_range_refused hs hc hr work,
      fun serving => ⟨exec_range_badParam hs hc hr serving work, fun nonzero fits =>
        ⟨exec_range_full hs hc hr serving work nonzero fits, fun j rest => exec_range_behind hs hc hr serving work nonzero fits,
          exec_range_alone hs hc hr serving work nonzero fits⟩⟩⟩⟩,
    fun s j rest jobs => ⟨fun e => beginBlock_cons jobs, fun k => rfl, fun k t blank hblank =>
      ⟨fun format own => ?_, fun blanks => ?_, fun scrub v hv => ⟨?_, fun kd hkd => ?_, ?_⟩⟩⟩,
    fun s u d q ok data n j rest porst inFlight request issuer kind jobs length hu => ?_,
    fun s u v t q ok data l k x porst inFlight request issuer kind hx hu => ?_⟩
  · exact (sweepHanded_format jobs format).trans (if_pos own)
  · have handed : runTask (.handTag .sweep k t) s = blankBlock j s := sweepHanded_blanks jobs blanks
    rw [handed, hblank, ← blankTag_eq]
    exact ⟨blankBlock_writeBack, blankBlock_writeThrough⟩
  · rintro rfl
    exact (sweepHanded_scrub jobs scrub).trans (scrubHanded_blank hv.symm)
  · have failure : v.isFailure = true ∧ v.recordKind = kd ∧ guardFor v [] = none := by
      obtain ⟨rfl, rfl⟩ | ⟨rfl, rfl⟩ | ⟨rfl, rfl⟩ := hkd <;> exact ⟨rfl, rfl, rfl⟩
    obtain ⟨fails, record, noGuard⟩ := failure
    have handed : runTask (.handTag .sweep k t) s = scrubHanded j t s := sweepHanded_scrub jobs scrub
    rw [handed, scrubHanded_failure hv.symm fails, reportScrub_eq, record, noGuard]
    rfl
  · rintro rfl
    exact (sweepHanded_scrub jobs scrub).trans ((scrubHanded_sound hv.symm).trans scrubRead_eq)
  · subst hu
    rw [exec_downstreamResponse_sweepRead porst inFlight request issuer kind jobs length]
    refine ⟨?_, fun failed v hv => ?_⟩
    · rintro rfl sofar bytes rfl
      refine ⟨fun more => ?_, fun tag last captured => ?_⟩
      · rw [scrubRead_stored (s := s.setDownTag d .powerOn) sofar more]
        rfl
      · obtain ⟨agrees, differs⟩ := scrubRead_last (s := s.setDownTag d .powerOn) (j := j) (n := n) (data := data) sofar last
          captured rfl rfl rfl
        exact ⟨fun h => congrArg (fun t => Host.Outcome.next (run t)) (agrees h),
          fun h => congrArg (fun t => Host.Outcome.next (run t)) (differs h)⟩
    · obtain ⟨more, last⟩ := scrubRead_failed (s := s.setDownTag d .powerOn) (n := n) (data := data) failed hv
      exact ⟨fun h => congrArg (fun t => Host.Outcome.next (run t)) (more h),
        fun h => congrArg (fun t => Host.Outcome.next (run t)) (last h)⟩
  · subst hx hu
    rw [exec_downstreamResponse_sweepTag ok data porst inFlight request issuer kind]
    refine ⟨?_, ?_, ?_⟩
    · rintro rfl r line key dirty last noFault unlisted rfl
      have line := lineTagWriteOk_clean (s := s.setDownTag t .powerOn) key dirty last noFault unlisted
      exact congrArg (fun t => Host.Outcome.next (run (endBlock (.done false) t))) line
    · rintro rfl more rfl
      have line := lineTagWriteOk_dirtied (s := s.setDownTag t .powerOn) more
      exact congrArg (fun t => Host.Outcome.next (run (endBlock (.done false) t))) line
    · rintro rfl hv
      have line : lineTagWriteFail l (s.setDownTag t .powerOn) = v := hv.symm
      have log : v.el = s.el := by rw [← line, lineTagWriteFail_el, setDownTag_el]
      have posted : tagWriteDone (some l) q.key false (s.setDownTag t .powerOn) = offer (tagWriteRecord q.key) v :=
        congrArg (offer _) line
      rw [posted, ← log]
      rfl

end Sys2Proof.Machine
end

section
/-! PROOFS. A health lock and what it freezes, over every step but the release of PORST# (R143): of the mailbox commands SET HEALTH
alone writes the frozen fields, and it is refused on a locked record (R141). -/

namespace Sys2Proof.Machine

/-! ## From one state to another -/

/-- From `s` to `t`, every locked record keeps its thresholds, its fence enable and its lock. -/
def LocksKept (s t : State) : Prop :=
  ∀ r, (s.region r).healthLocked = true → (t.region r).lockedPart = (s.region r).lockedPart

section
variable {s t u : State}

/-- A record that keeps its locked part is locked as before, so the lock holds on. -/
theorem LocksKept.trans (h : LocksKept s t) (k : LocksKept t u) : LocksKept s u := by
  intro r locked
  have same : (t.region r).lockedPart = (s.region r).lockedPart := h r locked
  have still : (t.region r).healthLocked = (s.region r).healthLocked := congrArg (fun p => p.2.2.2) same
  exact (k r (still.trans locked)).trans same

theorem locksKept_of_regions (e : t.ru.regions = s.ru.regions) : LocksKept s t := fun r _ => by
  rw [State.region, e, State.region]

/-- A cascade keeps each record's definition, and so its locked part. -/
theorem locksKept_of_moves (m : Moves s t) : LocksKept s t := fun r _ => Region.lockedPart_of_definition (m.definition r)

theorem Moves.locksKept (m : Moves t u) (h : LocksKept s t) : LocksKept s u := h.trans (locksKept_of_moves m)

theorem LocksKept.regions (h : LocksKept s t) (e : u.ru.regions = t.ru.regions) : LocksKept s u := h.trans (locksKept_of_regions e)

/-- A record changed outside its locked part, if it is locked. -/
theorem locksKept_updRegion {r : RegionId} {f : Region → Region}
    (e : (s.region r).healthLocked = true → (f (s.region r)).lockedPart = (s.region r).lockedPart) :
    LocksKept s (s.updRegion r f) := by
  intro q locked
  rw [updRegion_region]
  split
  · next hq => subst hq; exact e locked
  · rfl

theorem finishCommand_locksKept (k : ResultCode) : LocksKept s (finishCommand k s) := locksKept_of_regions rfl
end

/-! ## The Region Unit's commands -/

section
variable (c : Command) (s : State)

/-- A command on a region keeps the locks when it does so for the region it names. -/
theorem onRegion_locksKept {f : RegionId → State → State} (hf : ∀ r, LocksKept s (f r s)) : LocksKept s (onRegion c f s) := by
  unfold onRegion
  split
  · exact finishCommand_locksKept _
  · exact hf _

/-- The record that DEFINE REGION asks for carries the health settings of the one before (R13). -/
theorem requestedRegion_lockedPart {g d : Region} (h : requestedRegion c g = some d) : d.lockedPart = g.lockedPart := by
  unfold requestedRegion at h
  split at h
  · split at h
    · cases h; rfl
    · cases h
  · cases h

theorem cmdDefineRegion_locksKept : LocksKept s (cmdDefineRegion c s) := by
  refine onRegion_locksKept c s fun r => ?_
  unfold defineRegion
  split
  · exact finishCommand_locksKept _
  · split
    · exact finishCommand_locksKept _
    · next g hg =>
      split
      · exact finishCommand_locksKept _
      · exact (locksKept_updRegion fun _ => requestedRegion_lockedPart c hg).trans (finishCommand_locksKept _)

theorem cmdClearRegion_locksKept : LocksKept s (cmdClearRegion c s) := by
  refine onRegion_locksKept c s fun r => ?_
  unfold clearRegion
  split
  · exact finishCommand_locksKept _
  · split
    · exact finishCommand_locksKept _
    · exact (locksKept_updRegion fun _ => rfl).trans (finishCommand_locksKept _)

theorem cmdSetAccess_locksKept : LocksKept s (cmdSetAccess c s) := by
  unfold cmdSetAccess
  split
  · split
    · exact finishCommand_locksKept _
    · exact (locksKept_updRegion fun _ => rfl).trans (finishCommand_locksKept _)
  · exact finishCommand_locksKept _

theorem cmdActivate_locksKept : LocksKept s (cmdActivate c s) := by
  refine (moves_run .refl).locksKept (onRegion_locksKept c s fun r => ?_)
  have put (x : RegionState) : LocksKept s (s.updRegion r fun g => { g with state := x }) := locksKept_updRegion fun _ => rfl
  unfold activate
  split
  · exact finishCommand_locksKept _
  · split
    · split
      · exact finishCommand_locksKept _
      · exact (moves_startNext .refl).locksKept ((put .formatting).regions rfl)
    · exact (put .online).trans (finishCommand_locksKept _)

theorem cmdDeactivate_locksKept : LocksKept s (cmdDeactivate c s) := by
  refine (moves_run .refl).locksKept (onRegion_locksKept c s fun r => ?_)
  unfold deactivate
  split
  · have started : LocksKept s (startLong (.deactivate r) s) := locksKept_of_regions rfl
    exact (moves_push _ (moves_cancelJobs _ .refl)).locksKept (started.trans (locksKept_updRegion fun _ => rfl))
  · exact finishCommand_locksKept _

theorem cmdUnfence_locksKept : LocksKept s (cmdUnfence c s) := by
  refine onRegion_locksKept c s fun r => ?_
  split
  · exact finishCommand_locksKept _
  · exact (locksKept_updRegion fun _ => rfl).trans (finishCommand_locksKept _)

/-- SET HEALTH refuses a locked record (R141). -/
theorem cmdSetHealth_locksKept : LocksKept s (cmdSetHealth c s) := by
  refine onRegion_locksKept c s fun r => ?_
  unfold setHealth
  split
  · exact finishCommand_locksKept _
  · next unlocked =>
    split
    · exact finishCommand_locksKept _
    · split
      · exact finishCommand_locksKept _
      · exact (locksKept_updRegion fun locked => absurd locked unlocked).trans (finishCommand_locksKept _)

theorem cmdClearHealth_locksKept : LocksKept s (cmdClearHealth c s) :=
  onRegion_locksKept c s fun _ => (locksKept_updRegion fun _ => rfl).trans (finishCommand_locksKept _)

/-- LOCK HEALTH of a locked record sets what is set. -/
theorem cmdLockHealth_locksKept : LocksKept s (cmdLockHealth c s) :=
  onRegion_locksKept c s fun r =>
    (locksKept_updRegion fun locked => by simp only [Region.lockedPart, locked]).trans (finishCommand_locksKept _)

/-! ## The other units' commands -/

theorem cmdFormat_locksKept : LocksKept s (cmdFormat c s) := by
  refine (moves_run .refl).locksKept (onRegion_locksKept c s fun r => ?_)
  have formatted : LocksKept s (s.updRegion r Region.formatted) := locksKept_updRegion fun _ => rfl
  unfold formatRegion
  split
  · exact finishCommand_locksKept _
  · split
    · exact finishCommand_locksKept _
    · exact (moves_cancelJobs _ .refl).locksKept (formatted.regions rfl)

theorem queueRange_locksKept (k : JobKind) (r : RegionId) : LocksKept s (queueRange k c r s) := by
  unfold queueRange
  split
  · exact finishCommand_locksKept _
  · split
    · exact finishCommand_locksKept _
    · exact (moves_startNext .refl).locksKept (locksKept_of_regions rfl)

theorem cmdScrub_locksKept : LocksKept s (cmdScrub c s) := by
  refine (moves_run .refl).locksKept (onRegion_locksKept c s fun r => ?_)
  unfold scrubRegion
  split
  · exact finishCommand_locksKept _
  · exact queueRange_locksKept c s _ r

theorem cmdReblank_locksKept : LocksKept s (cmdReblank c s) := by
  refine (moves_run .refl).locksKept (onRegion_locksKept c s fun r => ?_)
  unfold reblankRegion
  split
  · exact finishCommand_locksKept _
  · exact queueRange_locksKept c s _ r

theorem cmdCancelSweep_locksKept : LocksKept s (cmdCancelSweep c s) := by
  unfold cmdCancelSweep
  split
  · exact finishCommand_locksKept _
  · split
    · exact finishCommand_locksKept _
    · split
      · exact finishCommand_locksKept _
      · exact (moves_run (moves_cancelJobs _ .refl)).locksKept (finishCommand_locksKept _)

theorem cmdFlush_locksKept : LocksKept s (cmdFlush c s) := by
  unfold cmdFlush
  split
  · exact finishCommand_locksKept _
  · exact (moves_makeFlush _ _ .refl).locksKept (locksKept_of_regions rfl)

theorem drainRegions_locksKept : LocksKept s (drainRegions s) := by
  intro r _
  simp only [drainRegions, State.region, withRu_ru, vget_map]
  split <;> rfl

theorem cmdResetEngine_locksKept : LocksKept s (cmdResetEngine s) := by
  have marked : LocksKept s (markReset (startLong (.resetEngine false) s)) := locksKept_of_regions rfl
  exact (moves_run (moves_push _ (moves_abandonAll (moves_cancelJobs _ .refl)))).locksKept (marked.trans (drainRegions_locksKept _))

/-- Every mailbox command keeps the locks: each of the 25 by its own lemma, and a code that names none is refused. -/
theorem runCommand_locksKept : LocksKept s (runCommand c s) := by
  unfold runCommand
  split
  · exact cmdDefineRegion_locksKept c s
  · exact cmdClearRegion_locksKept c s
  · exact locksKept_of_regions (cmdQueryRegion_regions c s)
  · exact cmdSetAccess_locksKept c s
  · exact locksKept_of_regions (cmdMapRequester_regions c s)
  · exact locksKept_of_regions (cmdSetUnmappedPolicy_regions c s)
  · exact cmdActivate_locksKept c s
  · exact cmdDeactivate_locksKept c s
  · exact cmdUnfence_locksKept c s
  · exact cmdSetHealth_locksKept c s
  · exact cmdClearHealth_locksKept c s
  · exact cmdLockHealth_locksKept c s
  · exact cmdFormat_locksKept c s
  · exact cmdScrub_locksKept c s
  · exact cmdReblank_locksKept c s
  · exact cmdCancelSweep_locksKept c s
  · exact locksKept_of_regions (cmdSetPacing_regions c s)
  · exact locksKept_of_regions rfl
  · exact cmdFlush_locksKept c s
  · exact locksKept_of_regions (cmdSetTimeout_regions c s)
  · exact locksKept_of_regions (cmdSetSweepShare_regions c s)
  · exact locksKept_of_regions (cmdSetLogMask_regions c s)
  · exact locksKept_of_regions (cmdSetAlertMask_regions c s)
  · exact locksKept_of_regions rfl
  · exact cmdResetEngine_locksKept s
  · exact finishCommand_locksKept _
end

/-! ## Bytes on the bus -/

/-- A byte written to a register: the command register alone can reach a region. -/
theorem writeRegister_locksKept (off v : Byte) (s : State) : LocksKept s (writeRegister off v s) := by
  unfold writeRegister
  split
  · exact locksKept_of_regions rfl
  · split
    · unfold writeCommand
      split
      · exact locksKept_of_regions rfl
      · have handed : LocksKept s (handOver v s) := locksKept_of_regions rfl
        exact handed.trans (runCommand_locksKept _ _)
    · split
      · exact locksKept_of_regions rfl
      · split <;> exact locksKept_of_regions rfl

theorem takeByte_locksKept (v : Byte) (s : State) : LocksKept s (takeByte v s) := by
  unfold takeByte
  split
  · exact locksKept_of_regions rfl
  · split
    · exact locksKept_of_regions (congrArg RegionUnit.regions (takeAddress_ru v s))
    · exact locksKept_of_regions rfl
    · have accepted : LocksKept s (acceptData s) := locksKept_of_regions rfl
      exact accepted.trans (writeRegister_locksKept _ _ _)
    all_goals exact locksKept_of_regions rfl

/-! ## The other rows -/

theorem examineAdmission_locksKept (s : State) : LocksKept s (examineAdmission s) := by
  unfold examineAdmission
  split
  · exact locksKept_of_regions rfl
  · split
    · exact locksKept_of_moves (moves_refuse _ _ _ _ (moves_withObt _ (by rfl) .refl))
    · split
      · exact (moves_run .refl).locksKept (locksKept_of_regions (congrArg RegionUnit.regions (admitHead_ru _ _)))
      · exact locksKept_of_regions rfl

theorem responseArrives_locksKept (t : DownTagId) (ok : Bool) (d : List Byte) (s : State) :
    LocksKept s (responseArrives t ok d s) := by
  unfold responseArrives
  split
  · exact locksKept_of_regions rfl
  · split
    · refine (moves_run .refl).locksKept ?_
      unfold takeResponse
      split <;> exact (moves_complete _ _ _ .refl).locksKept (locksKept_of_regions rfl)
    · exact locksKept_of_regions (congrArg RegionUnit.regions (lateResponse_ru t s))

theorem responseExpired_locksKept (t : DownTagId) (s : State) : LocksKept s (responseExpired t s) := by
  unfold responseExpired
  split
  · exact (moves_run (moves_complete _ _ _ .refl)).locksKept (locksKept_of_regions rfl)
  · exact locksKept_of_regions rfl

theorem assertFrst_locksKept (s : State) : LocksKept s (assertFrst s) := by
  have pinned : LocksKept s (s.withPins { s.pins with frst := true }) := locksKept_of_regions rfl
  exact (moves_run (moves_abandonAll .refl)).locksKept pinned

/-- Every command but the release of PORST# keeps the locks. -/
theorem exec_locksKept {c : Instr} {s t : State} (other : ∀ a, c ≠ .porstReleased a) (e : exec c s = .next t) :
    LocksKept s t := by
  cases hb : busByte c with
  | some v =>
    rw [exec_of_busByte hb] at e
    cases e
    exact takeByte_locksKept v s
  | none =>
    cases c with
    | readRequest q t a n => cases e; exact locksKept_of_moves (moves_arrive _ .refl)
    | writeRequest q t a d m => cases e; exact locksKept_of_moves (moves_arrive _ .refl)
    | responseSent => cases e; exact locksKept_of_regions (congrArg RegionUnit.regions (sendResponse_ru s))
    | admissionExamination => cases e; exact examineAdmission_locksKept s
    | bufferWaitExamination => cases e; exact locksKept_of_moves (moves_run (moves_examineBuffers _ .refl))
    | allocationExamination => cases e; exact locksKept_of_moves (moves_examineAllocation _ .refl)
    | retryTimerExpiry l => cases e; exact locksKept_of_moves (moves_retryExpired l .refl)
    | pacingTimerExpiry => cases e; exact locksKept_of_moves (moves_pacingExpired s)
    | requestGrant => cases e; exact locksKept_of_regions (congrArg RegionUnit.regions (grantRequests_ru 16 s))
    | downstreamResponse t ok d => cases e; exact responseArrives_locksKept t ok d s
    | responseTimerExpiry t => cases e; exact responseExpired_locksKept t s
    | quarantineTimerExpiry t => cases e; split <;> exact locksKept_of_regions rfl
    | logHeadRead m => cases e; split <;> exact locksKept_of_regions rfl
    | frstAsserted => exact Host.Outcome.next.inj e ▸ assertFrst_locksKept s
    | frstReleased => cases e; exact locksKept_of_regions rfl
    | porstAsserted => cases e; exact locksKept_of_regions rfl
    | porstReleased a => exact absurd rfl (other a)
    | startCondition => cases e; split <;> exact locksKept_of_regions rfl
    | stopCondition => cases e; split <;> exact locksKept_of_regions rfl
    | _ => cases hb

/-- Settles O59: the empty queue idles, and every command but the release of PORST# keeps the locks. -/
theorem healthLockLastsUntilPowerOnReset : Obligations.HealthLockLastsUntilPowerOnReset := by
  intro s t r locked e other
  unfold step at e
  split at e
  · cases e; rfl
  · next c rest front =>
    have named (a : BitVec 2) : c ≠ .porstReleased a := fun h => other a rest (front.trans (congrArg (· :: rest) h))
    exact exec_locksKept (s := s.withPending rest) named e r locked

end Sys2Proof.Machine
end

section
/-! PROOFS. The health commands UNFENCE, SET HEALTH, CLEAR HEALTH and LOCK HEALTH (R140 to R143), and a health report (R138). -/

namespace Sys2Proof.Machine

/-! ## SET HEALTH (R141) -/

theorem settingCode_bit (b : Bool) : settingCode (bit b) = some b := by cases b <;> rfl

theorem settingCode_none : ∀ {n : Nat}, 1 < n → settingCode n = none
  | _ + 2, _ => rfl

section
variable {s : State} {c : Command} {r : RegionId}

theorem setHealth_locked (locked : (s.region r).healthLocked = true) : setHealth c r s = finishCommand .refusedLocked s :=
  if_pos locked

theorem setHealth_badParam (unlocked : (s.region r).healthLocked = false)
    (bad : 65535 < c.field 1 4 ∨ 65535 < c.field 5 4 ∨ 1 < c.field 9 1) : setHealth c r s = finishCommand .refusedParam s := by
  rw [setHealth, if_neg (Bool.eq_false_iff.mp unlocked)]
  split
  · rfl
  · next on hon =>
    obtain warn | fence | setting := bad
    · exact if_pos (.inl warn)
    · exact if_pos (.inr fence)
    · rw [settingCode_none setting] at hon
      cases hon

theorem setHealth_inRange {on : Bool} (unlocked : (s.region r).healthLocked = false) (warn : c.field 1 4 ≤ 65535)
    (fence : c.field 5 4 ≤ 65535) (setting : c.field 9 1 = bit on) :
    setHealth c r s = finishCommand .doneOk (s.updRegion r fun g =>
      { g with warnThreshold := c.field 1 4, fenceThreshold := c.field 5 4, fenceEnable := on }) := by
  rw [setHealth, if_neg (Bool.eq_false_iff.mp unlocked), setting, settingCode_bit]
  exact if_neg (by omega)
end

/-- Settles O40: the refusals of R141 in their order, then the three settings. -/
theorem setHealthUnlessLocked : Obligations.SetHealthUnlessLocked := by
  intro s hs
  rw [exec_setHealth s hs, cmdSetHealth]
  refine ⟨fun noRegion => congrArg _ (onRegion_none 0x0A noRegion _), fun r hr => ?_⟩
  rw [onRegion_some 0x0A hr]
  exact ⟨fun locked => congrArg _ (setHealth_locked locked), fun unlocked =>
    ⟨fun bad => congrArg _ (setHealth_badParam unlocked bad), fun on warn fence setting =>
      congrArg _ (setHealth_inRange unlocked warn fence setting)⟩⟩

/-! ## UNFENCE, CLEAR HEALTH and LOCK HEALTH (R140, R142, R143) -/

/-- Settles O39: a region index out of range refuses all three, and an EMPTY region UNFENCE alone. -/
theorem unfenceClearAndLockHealth : Obligations.UnfenceClearAndLockHealth := by
  intro s hs
  rw [exec_unfence s hs, exec_clearHealth s hs, exec_lockHealth s hs, cmdUnfence, cmdClearHealth, cmdLockHealth]
  refine ⟨fun noRegion => ⟨congrArg _ (onRegion_none 0x09 noRegion _), congrArg _ (onRegion_none 0x0B noRegion _),
    congrArg _ (onRegion_none 0x0C noRegion _)⟩, fun r hr => ?_⟩
  rw [onRegion_some 0x09 hr, onRegion_some 0x0B hr, onRegion_some 0x0C hr]
  exact ⟨fun empty => congrArg _ (if_pos empty), fun defined => congrArg _ (if_neg defined), rfl, rfl⟩

/-! ## A health report (R138) -/

theorem Region.warnDue_iff (g : Region) :
    g.warnDue = true ↔ g.warnThreshold ≠ 0 ∧ g.warnThreshold ≤ g.errorCount ∧ g.warnReported = false := by
  simp [Region.warnDue, and_assoc]

theorem Region.fenceDue_iff (g : Region) :
    g.fenceDue = true ↔ (g.state = .online ∨ g.state = .formatting) ∧ g.fenceEnable = true ∧
      g.fenceThreshold ≠ 0 ∧ g.fenceThreshold ≤ g.errorCount ∧ g.fenced = false := by
  simp [Region.fenceDue, RegionState.admits_iff, and_assoc]

theorem offerIf_eq (c : Bool) (rec : Record) (s : State) :
    offerIf c rec s = { s with el := if c then s.el.offer rec else s.el } := by cases c <;> rfl

/-- A report in one record: the region's, then the log's, with the warning offered before the fence. -/
theorem healthReport_eq (src : Source) (r : RegionId) (b : Nat) (who : Option (RequesterId × TransactionId)) (s : State) :
    healthReport src r b who s = { s with
      ru := { s.ru with regions := vset s.ru.regions r (s.region r).reported }
      el :=
        let e := if (s.region r).counted.warnDue then s.el.offer (healthRecord .healthWarn src r b who) else s.el
        if (s.region r).counted.fenceDue then e.offer (healthRecord .regionFenced src r b who) else e } := by
  rw [healthReport, offerIf_eq, offerIf_eq]
  rfl

/-- Settles O41: the warn and fence steps of R138 are those due on the record with its count already raised. -/
theorem healthReportCountsWarnsAndFences : Obligations.HealthReportCountsWarnsAndFences := by
  intro src r b who s n warn fence hn hwarn hfence
  have count : (s.region r).counted.errorCount = n := hn.symm
  have warned : (s.region r).counted.warnDue = warn :=
    Bool.eq_iff_iff.mpr ((Region.warnDue_iff _).trans (count ▸ hwarn.symm))
  have fenced : (s.region r).counted.fenceDue = fence :=
    Bool.eq_iff_iff.mpr ((Region.fenceDue_iff _).trans (count ▸ hfence.symm))
  refine ⟨_, rfl, ?_⟩
  rw [healthReport_eq, Region.reported, warned, fenced, ← count]
  rfl

end Sys2Proof.Machine
end

section
/-! PROOFS. ACTIVATE (R132, R119), and DEACTIVATE with the end of a drain that finds nothing of its region at work (R133, R134). -/

namespace Sys2Proof.Machine

/-! ## ACTIVATE (R132) -/

section
variable {s : State} {r : RegionId}

theorem activate_refused (h : (s.region r).state ≠ .configured) : activate r s = finishCommand .refusedState s := if_pos h

theorem activate_formatted (h : (s.region r).state = .configured) (done : (s.region r).blockCount ≤ (s.region r).frontier) :
    activate r s = finishCommand .doneOk (s.updRegion r fun g => { g with state := .online }) :=
  (if_neg (Decidable.not_not.mpr h)).trans (if_neg (Nat.not_lt.mpr done))

section
variable (h : (s.region r).state = .configured) (unfinished : (s.region r).frontier < (s.region r).blockCount)
include h unfinished

theorem activate_full (full : 4 ≤ s.su.jobs.length) : activate r s = finishCommand .queueFull s :=
  (if_neg (Decidable.not_not.mpr h)).trans ((if_pos unfinished).trans (if_pos ((queueFull_iff s).mpr full)))

theorem activate_resumes (room : s.su.jobs.length < 4) : activate r s = resumeFormat r s :=
  (if_neg (Decidable.not_not.mpr h)).trans
    ((if_pos unfinished).trans (if_neg (mt (queueFull_iff s).mp (Nat.not_le.mpr room))))
end
end

/-- Settles O37: the refusal by state, then by the frontier ONLINE at once, or a full queue, or the format resumed. -/
theorem activateBringsTheRegionIntoService : Obligations.ActivateBringsTheRegionIntoService := by
  intro s hs work
  rw [exec_activate s hs, cmdActivate]
  refine ⟨fun noRegion => ?_, fun r hr => ?_⟩
  · rw [onRegion_none 0x07 noRegion, run_ended work]
  rw [onRegion_some 0x07 hr]
  refine ⟨fun other => ?_, fun configured => ⟨fun done => ?_, fun unfinished => ⟨fun full => ?_, fun room => ?_⟩⟩⟩
  · rw [activate_refused (by exact other)]
    exact congrArg _ (run_ended work _)
  · rw [activate_formatted (by exact configured) (by exact done)]
    exact congrArg _ (run_quiet _ work rfl)
  · rw [activate_full (by exact configured) (by exact unfinished) (by exact full)]
    exact congrArg _ (run_ended work _)
  · rw [activate_resumes (by exact configured) (by exact unfinished) (by exact room), ← writeAt_singleton]
    rfl

/-! ## A drain with nothing to drain (R110, R134) -/

theorem updRegion_updRegion (s : State) (r : RegionId) (f g : Region → Region) :
    (s.updRegion r f).updRegion r g = s.updRegion r (g ∘ f) := by
  show s.withRu { s.ru with regions := vset (vset s.ru.regions r (f (s.region r))) r (g ((s.updRegion r f).region r)) } = _
  rw [updRegion_region_same]
  simp [State.updRegion, vset]

section
variable {s : State} {r : RegionId}

section
variable (noLine : ∀ l k, (s.line l).key = some k → k.1 ≠ r)
include noLine

/-- A line without a key in the region is not one of the region's. -/
theorem key_any_eq_false (l : LineId) : (s.line l).key.any (fun k => k.1 == r) = false := by
  cases hk : (s.line l).key with
  | none => rfl
  | some k => simpa using noLine l k hk

theorem flushable_of_noLine : s.tc.flushable (some r) = [] := by
  refine List.filter_eq_nil_iff.mpr fun l _ => ?_
  have other : (vget s.tc.lines l).key.any (fun k => k.1 == r) = false := key_any_eq_false noLine l
  have scope : (fun k : RegionId × Nat => Option.all (· == k.1) (some r)) = fun k => k.1 == r :=
    funext fun k => Bool.beq_comm
  simp only [Line.flushable, scope, other, Bool.and_false, Bool.false_eq_true, not_false_eq_true]

theorem cleanLines_of_noLine : s.tc.cleanLines r = [] := by
  refine List.filter_eq_nil_iff.mpr fun l _ => ?_
  have other : (vget s.tc.lines l).key.any (fun k => k.1 == r) = false := key_any_eq_false noLine l
  simp [other]

theorem filling_of_noLine : s.tc.filling r = false := by
  refine List.any_eq_false.mpr fun x hx => ?_
  obtain ⟨l, hl, rfl⟩ := List.mem_iff_getElem.mp hx
  have other : s.tc.lines.toList[l].key.any (fun k => k.1 == r) = false :=
    key_any_eq_false noLine ⟨l, by simpa using hl⟩
  rw [other, Bool.and_false]
  exact nofun

/-- A flushed drain with no line of its region ends at once. -/
theorem tryEndDrain_of_noLine (draining : (s.region r).state = .draining) (flushed : (s.region r).drainFlushed = true) :
    tryEndDrain r s = reportDrain r (s.region r).drainDiscards (s.updRegion r Region.endDrain) := by
  rw [tryEndDrain, if_pos ⟨draining, flushed, by rw [filling_of_noLine noLine]; rfl⟩, endDrain, cleanLines_of_noLine noLine]
  rfl

/-- A drain that finds no entry and no line of its region runs through its phases at once. -/
theorem drainCheck_of_nothing (draining : (s.region r).state = .draining) (closing : (s.region r).drainPhase = some .closing)
    (noEntry : s.obt.entriesOf r = 0) :
    drainCheck r s = reportDrain r (s.region r).drainDiscards (s.updRegion r Region.endDrain) := by
  rw [drainCheck, if_pos ⟨draining, closing, noEntry⟩, makeFlush_nil (flushable_of_noLine (by exact noLine))]
  show tryEndDrain r _ = _
  rw [updRegion_updRegion, tryEndDrain_of_noLine (by exact noLine) (by simpa using draining) (by simp), updRegion_updRegion,
    updRegion_region_same]
  rfl
end

/-- One internal event that sets off no other is the whole cascade. -/
theorem run_push_one {t : Task} (work : s.work = []) (ends : (runTask t s).work = []) :
    run (s.push [t]) = endReset (runTask t s) := by
  have taken : (s.push [t]).withWork [] = s := by
    show { s with work := [] } = s
    rw [← work]
  have queued : (s.push [t]).work = [t] := congrArg (· ++ [t]) work
  have one : settle Config.cascadeFuel (s.push [t]) = settle 16383 (runTask t ((s.push [t]).withWork [])) := by
    show settle (16383 + 1) (s.push [t]) = _
    rw [settle, queued]
  rw [run, one, taken, settle_nil _ _ ends]

/-! ## DEACTIVATE (R133) -/

theorem RegionState.drainable_iff (x : RegionState) : x.drainable = true ↔ x = .online ∨ x = .formatting ∨ x = .faulted := by
  cases x <;> decide

theorem deactivate_refused (h : (s.region r).state = .empty ∨ (s.region r).state = .configured ∨ (s.region r).state = .draining) :
    deactivate r s = finishCommand .refusedState s := by
  refine if_neg fun drainable => ?_
  obtain h | h | h := h <;> rw [h] at drainable <;> cases drainable

theorem deactivate_drains (h : (s.region r).state = .online ∨ (s.region r).state = .formatting ∨ (s.region r).state = .faulted) :
    deactivate r s = startDrain r (startLong (.deactivate r) s) := if_pos ((RegionState.drainable_iff _).mpr h)

/-- The drain of a DEACTIVATE with no job, no entry and no line of its region ends within the step, with nothing discarded. -/
theorem run_startDrain_idle (work : s.work = []) (long : s.mp.long = some (.deactivate r)) (noJob : s.su.jobs = [])
    (noEntry : ∀ e ∈ s.obt.entries, e.region ≠ r) (noLine : ∀ l k, (s.line l).key = some k → k.1 ≠ r) :
    run (startDrain r s) = finishCommand .doneOk (s.updRegion r (Region.endDrain ∘ Region.beginDrain)) := by
  have counted : s.obt.entriesOf r = 0 := List.countP_eq_zero.mpr fun e he => by simpa using noEntry e he
  have checked : runTask (.drainCheck r) (s.updRegion r Region.beginDrain) =
      finishCommand .doneOk (s.updRegion r (Region.endDrain ∘ Region.beginDrain)) := by
    have ended := drainCheck_of_nothing (s := s.updRegion r Region.beginDrain) (r := r) noLine (by rw [updRegion_region_same]; rfl)
      (by rw [updRegion_region_same]; rfl) counted
    rw [runTask, ended, updRegion_updRegion, updRegion_region_same, reportDrain, updRegion_mp, long]
    exact if_pos rfl
  have begun : startDrain r s = (s.updRegion r Region.beginDrain).push [.drainCheck r] :=
    congrArg (State.push · [.drainCheck r]) (cancelJobs_none _ (s.updRegion r Region.beginDrain) noJob)
  rw [begun, run_push_one (s := s.updRegion r Region.beginDrain) work (by rw [checked]; exact work), checked]
  rfl
end

/-- Settles O38: a drain begins and takes its course, and one that finds nothing of its region has ended within the step. -/
theorem deactivateDrainsTheRegion : Obligations.DeactivateDrainsTheRegion := by
  intro s hs work
  rw [exec_deactivate s hs, cmdDeactivate]
  refine ⟨fun noRegion => ?_, fun r hr => ?_⟩
  · rw [onRegion_none 0x08 noRegion, run_ended work]
  rw [onRegion_some 0x08 hr]
  refine ⟨fun refused => ?_, fun served => ?_⟩
  · rw [deactivate_refused (by exact refused)]
    exact congrArg _ (run_ended work _)
  rw [deactivate_drains (by exact served), startLong_handOver]
  refine ⟨rfl, fun noJob noEntry noLine => ?_⟩
  rw [run_startDrain_idle (by exact work) rfl (by exact noJob) (by exact noEntry) (by exact noLine)]
  rfl

end Sys2Proof.Machine
end

section
/-! PROOFS. The reset pins (R155, R156, R158, R190): the two edges of PORST# unit by unit, that no command but a pin's edge changes a
pin, and that the part held in reset takes no other command. -/

namespace Sys2Proof.Machine

/-! ## The two edges of PORST# (R158, R190) -/

/-- Settles O50: each edge writes the listed units, and a release of a pin that is not asserted is no event. -/
theorem powerOnResetRestoresTheUnits : Obligations.PowerOnResetRestoresTheUnits := by
  refine fun s => ⟨rfl, fun addr => ⟨fun asserted => ?_, fun released => ?_⟩⟩
  · exact congrArg Host.Outcome.next (if_pos asserted)
  · exact congrArg Host.Outcome.next (if_neg (by simp [released]))

/-! ## Mailbox commands change no pin -/

section
variable (c : Command) (s : State)

/-- A command on a region changes no pin when it changes none for the region it names. -/
theorem onRegion_pins {f : RegionId → State → State} (hf : ∀ r, (f r s).pins = s.pins) : (onRegion c f s).pins = s.pins := by
  unfold onRegion
  split
  · rfl
  · exact hf _

theorem cmdDefineRegion_pins : (cmdDefineRegion c s).pins = s.pins := by
  refine onRegion_pins c s fun r => ?_
  unfold defineRegion
  split
  · rfl
  · split
    · rfl
    · split <;> rfl

theorem cmdClearRegion_pins : (cmdClearRegion c s).pins = s.pins := by
  refine onRegion_pins c s fun r => ?_
  unfold clearRegion
  split
  · rfl
  · split <;> rfl

theorem cmdQueryRegion_pins : (cmdQueryRegion c s).pins = s.pins :=
  onRegion_pins c s fun r => by simp only [finishCommand_pins, writeResults_pins]

theorem cmdSetAccess_pins : (cmdSetAccess c s).pins = s.pins := by
  unfold cmdSetAccess
  split
  · split <;> rfl
  · rfl

theorem cmdMapRequester_pins : (cmdMapRequester c s).pins = s.pins := by
  unfold cmdMapRequester
  split <;> rfl

theorem cmdSetUnmappedPolicy_pins : (cmdSetUnmappedPolicy c s).pins = s.pins := by
  unfold cmdSetUnmappedPolicy
  split <;> rfl

theorem cmdActivate_pins : (cmdActivate c s).pins = s.pins := by
  refine (moves_run .refl).pins.trans (onRegion_pins c s fun r => ?_)
  unfold activate
  split
  · rfl
  · split
    · split
      · rfl
      · refine (moves_startNext .refl).pins.trans ?_
        simp only [acceptJob, finishCommand_pins, writeResults_pins, withSu_pins, updRegion_pins]
    · rfl

theorem cmdDeactivate_pins : (cmdDeactivate c s).pins = s.pins := by
  refine (moves_run .refl).pins.trans (onRegion_pins c s fun r => ?_)
  unfold deactivate
  split
  · exact (moves_push _ (moves_cancelJobs _ .refl)).pins
  · rfl

theorem cmdUnfence_pins : (cmdUnfence c s).pins = s.pins := by
  refine onRegion_pins c s fun r => ?_
  split <;> rfl

theorem cmdSetHealth_pins : (cmdSetHealth c s).pins = s.pins := by
  refine onRegion_pins c s fun r => ?_
  unfold setHealth
  split
  · rfl
  · split
    · rfl
    · split <;> rfl

theorem cmdClearHealth_pins : (cmdClearHealth c s).pins = s.pins := onRegion_pins c s fun _ => rfl

theorem cmdLockHealth_pins : (cmdLockHealth c s).pins = s.pins := onRegion_pins c s fun _ => rfl

theorem cmdFormat_pins : (cmdFormat c s).pins = s.pins := by
  refine (moves_run .refl).pins.trans (onRegion_pins c s fun r => ?_)
  unfold formatRegion
  split
  · rfl
  · split
    · rfl
    · refine (moves_cancelJobs _ .refl).pins.trans ?_
      simp only [acceptJob, finishCommand_pins, writeResults_pins, withSu_pins, updRegion_pins]

theorem queueRange_pins (k : JobKind) (r : RegionId) : (queueRange k c r s).pins = s.pins := by
  unfold queueRange
  split
  · rfl
  · split
    · rfl
    · refine (moves_startNext .refl).pins.trans ?_
      simp only [acceptJob, finishCommand_pins, writeResults_pins, withSu_pins]

theorem cmdScrub_pins : (cmdScrub c s).pins = s.pins := by
  refine (moves_run .refl).pins.trans (onRegion_pins c s fun r => ?_)
  unfold scrubRegion
  split
  · rfl
  · exact queueRange_pins c s .scrub r

theorem cmdReblank_pins : (cmdReblank c s).pins = s.pins := by
  refine (moves_run .refl).pins.trans (onRegion_pins c s fun r => ?_)
  unfold reblankRegion
  split
  · rfl
  · exact queueRange_pins c s .reblank r

theorem cmdCancelSweep_pins : (cmdCancelSweep c s).pins = s.pins := by
  unfold cmdCancelSweep
  split
  · rfl
  · split
    · rfl
    · split
      · rfl
      · exact (moves_run (moves_cancelJobs _ .refl)).pins

theorem cmdSetPacing_pins : (cmdSetPacing c s).pins = s.pins := by
  unfold cmdSetPacing
  split <;> rfl

theorem cmdQuerySweep_pins : (cmdQuerySweep s).pins = s.pins := by
  simp only [cmdQuerySweep, finishCommand_pins, writeResults_pins]

theorem cmdFlush_pins : (cmdFlush c s).pins = s.pins := by
  unfold cmdFlush
  split
  · rfl
  · exact (moves_makeFlush _ _ .refl).pins

theorem cmdSetTimeout_pins : (cmdSetTimeout c s).pins = s.pins := by
  unfold cmdSetTimeout
  split <;> rfl

theorem cmdSetSweepShare_pins : (cmdSetSweepShare c s).pins = s.pins := by
  unfold cmdSetSweepShare
  split <;> rfl

theorem cmdSetLogMask_pins : (cmdSetLogMask c s).pins = s.pins := by
  unfold cmdSetLogMask
  split <;> rfl

theorem cmdSetAlertMask_pins : (cmdSetAlertMask c s).pins = s.pins := by
  unfold cmdSetAlertMask
  split <;> simp only [finishCommand_pins, withEl_pins]

theorem cmdResetEngine_pins : (cmdResetEngine s).pins = s.pins :=
  (moves_run (moves_push _ (moves_abandonAll (moves_cancelJobs _ .refl)))).pins

/-- Every mailbox command, by its own lemma, leaves the pins as they are. -/
theorem runCommand_pins : (runCommand c s).pins = s.pins := by
  unfold runCommand
  split
  · exact cmdDefineRegion_pins c s
  · exact cmdClearRegion_pins c s
  · exact cmdQueryRegion_pins c s
  · exact cmdSetAccess_pins c s
  · exact cmdMapRequester_pins c s
  · exact cmdSetUnmappedPolicy_pins c s
  · exact cmdActivate_pins c s
  · exact cmdDeactivate_pins c s
  · exact cmdUnfence_pins c s
  · exact cmdSetHealth_pins c s
  · exact cmdClearHealth_pins c s
  · exact cmdLockHealth_pins c s
  · exact cmdFormat_pins c s
  · exact cmdScrub_pins c s
  · exact cmdReblank_pins c s
  · exact cmdCancelSweep_pins c s
  · exact cmdSetPacing_pins c s
  · exact cmdQuerySweep_pins s
  · exact cmdFlush_pins c s
  · exact cmdSetTimeout_pins c s
  · exact cmdSetSweepShare_pins c s
  · exact cmdSetLogMask_pins c s
  · exact cmdSetAlertMask_pins c s
  · rfl
  · exact cmdResetEngine_pins s
  · rfl
end

/-! ## Bytes on the bus change no pin -/

theorem writeRegister_pins (off v : Byte) (s : State) : (writeRegister off v s).pins = s.pins := by
  unfold writeRegister
  split
  · rfl
  · split
    · unfold writeCommand
      split
      · rfl
      · exact runCommand_pins _ (handOver v s)
    · split
      · rfl
      · split
        · exact withMp_pins s _
        · rfl

theorem takeByte_pins (v : Byte) (s : State) : (takeByte v s).pins = s.pins := by
  unfold takeByte
  split
  · rfl
  · split
    · unfold takeAddress
      split <;> rfl
    · rfl
    · exact writeRegister_pins s.mp.offset v (acceptData s)
    all_goals rfl

/-! ## The other rows -/

theorem sendResponse_pins (s : State) : (sendResponse s).pins = s.pins := by
  unfold sendResponse
  split <;> rfl

theorem admitHead_pins (i : SlotId) (s : State) : (admitHead i s).pins = s.pins := by
  unfold admitHead
  generalize (s.slot i).parts = ps
  refine List.foldlRecOn ps _ (motive := fun t : State => t.pins = s.pins) rfl fun t ht p _ => ht

theorem examineAdmission_pins (s : State) : (examineAdmission s).pins = s.pins := by
  unfold examineAdmission
  split
  · rfl
  · split
    · rfl
    · split
      · exact (moves_run .refl).pins.trans (admitHead_pins _ _)
      · rfl

theorem grantRequests_pins (n : Nat) (s : State) : (grantRequests n s).pins = s.pins := by
  induction n generalizing s with
  | zero => rfl
  | succ n ih =>
    unfold grantRequests
    split
    · rfl
    · split
      · rfl
      · exact ih _

theorem responseArrives_pins (t : DownTagId) (ok : Bool) (d : List Byte) (s : State) :
    (responseArrives t ok d s).pins = s.pins := by
  unfold responseArrives
  split
  · rfl
  · split
    · refine (moves_run .refl).pins.trans ?_
      unfold takeResponse
      split <;> exact (moves_complete _ _ _ .refl).pins
    · unfold lateResponse
      split <;> rfl

theorem responseExpired_pins (t : DownTagId) (s : State) : (responseExpired t s).pins = s.pins := by
  unfold responseExpired
  split
  · exact (moves_run (moves_complete _ _ _ .refl)).pins
  · rfl

/-- The four edges of the two reset pins. -/
def isPinEdge : Instr → Bool
  | .frstAsserted | .frstReleased | .porstAsserted | .porstReleased _ => true
  | _ => false

/-- No command but an edge of a pin changes a pin. -/
theorem exec_pins {c : Instr} {s t : State} (edge : isPinEdge c = false) (e : exec c s = .next t) : t.pins = s.pins := by
  cases hb : busByte c with
  | some v =>
    rw [exec_of_busByte hb] at e
    cases e
    exact takeByte_pins v s
  | none =>
    cases c with
    | readRequest q t a n => cases e; exact (moves_arrive _ .refl).pins
    | writeRequest q t a d m => cases e; exact (moves_arrive _ .refl).pins
    | responseSent => cases e; exact sendResponse_pins s
    | admissionExamination => cases e; exact examineAdmission_pins s
    | bufferWaitExamination => cases e; exact (moves_run (moves_examineBuffers _ .refl)).pins
    | allocationExamination => cases e; exact (moves_examineAllocation _ .refl).pins
    | retryTimerExpiry l => cases e; exact (moves_retryExpired l .refl).pins
    | pacingTimerExpiry => cases e; exact (moves_pacingExpired s).pins
    | requestGrant => cases e; exact grantRequests_pins 16 s
    | downstreamResponse t ok d => cases e; exact responseArrives_pins t ok d s
    | responseTimerExpiry t => cases e; exact responseExpired_pins t s
    | quarantineTimerExpiry t => cases e; split <;> rfl
    | logHeadRead m => cases e; split <;> rfl
    | startCondition => cases e; split <;> rfl
    | stopCondition => cases e; split <;> rfl
    | frstAsserted | frstReleased | porstAsserted | porstReleased => cases edge
    | _ => cases hb

/-! ## The part held in reset (R158, R190) -/

/-- What the law of PORST# says of the units while the pin is asserted. -/
def State.AtPowerOn (s : State) : Prop :=
  s.tu = .powerOn ∧ s.obt = .powerOn ∧ s.tc = .powerOn ∧ s.su = .powerOn ∧ s.ma = .powerOn ∧ s.el.alert = false ∧
    s.mp.phase = .idle ∧ s.mp.long = none ∧ s.work = []

theorem heldLaw_iff (s : State) : heldLaw s ↔ (s.pins.porst = true → s.AtPowerOn) := Iff.rfl

theorem assertPorst_atPowerOn (s : State) : (assertPorst s).AtPowerOn := ⟨rfl, rfl, rfl, rfl, rfl, rfl, rfl, rfl, rfl⟩

theorem sendResponse_nil {s : State} (h : s.tu.responses = []) : sendResponse s = s := by
  unfold sendResponse
  rw [h]

theorem MemoryArbiter.next_none {m : MemoryArbiter} (tag : m.tagQueue = []) (work : m.workQueue = []) (sweep : m.sweepQueue = []) :
    m.next = none := by
  unfold MemoryArbiter.next
  rw [tag, work, sweep]

theorem grantRequests_of_next_none {s : State} (h : s.ma.next = none) (n : Nat) : grantRequests n s = s := by
  cases n with
  | zero => rfl
  | succ n =>
    unfold grantRequests
    rw [h]
    split <;> rfl

theorem abandonSlot_of_free {s : State} {i : SlotId} (h : (s.slot i).state = .free) : abandonSlot s i = s := by
  unfold abandonSlot
  rw [h]

/-- FREE slots, each looked at for abandonment, change nothing. -/
theorem foldl_abandonSlot_of_free {s : State} {l : List SlotId} (h : ∀ i ∈ l, (s.slot i).state = .free) :
    l.foldl abandonSlot s = s :=
  List.foldlRecOn l _ (motive := (· = s)) rfl fun t same i hi => by rw [same, abandonSlot_of_free (h i hi)]

theorem abandonAll_of_free {s : State} (h : ∀ i, (s.slot i).state = .free) : abandonAll s = s :=
  foldl_abandonSlot_of_free fun i _ => h i

section
variable {s : State} (h : s.AtPowerOn)
include h

theorem State.AtPowerOn.slot (i : SlotId) : s.slot i = .powerOn := by
  rw [State.slot, h.1]
  exact vget_replicate _ i

theorem State.AtPowerOn.line (l : LineId) : s.line l = .powerOn := by
  obtain ⟨-, -, tc, -⟩ := h
  rw [State.line, tc]
  exact vget_replicate _ l

theorem State.AtPowerOn.downTag (t : DownTagId) : s.downTag t = .powerOn := by
  obtain ⟨-, -, -, -, ma, -⟩ := h
  rw [State.downTag, ma]
  exact vget_replicate _ t

/-- With every unit at its power-on values a cascade finds nothing to take. -/
theorem State.AtPowerOn.run : run s = s := by
  obtain ⟨-, -, -, -, -, -, -, long, work⟩ := h
  exact run_quiet s work long

theorem State.AtPowerOn.assertFrst : assertFrst s = s.withPins { s.pins with frst := true } := by
  have held : (s.withPins { s.pins with frst := true }).AtPowerOn := h
  have none : abandonAll (s.withPins { s.pins with frst := true }) = s.withPins { s.pins with frst := true } :=
    abandonAll_of_free fun i => congrArg Slot.state (held.slot i)
  rw [Machine.assertFrst, none, held.run]

/-- A part held in reset takes no command but a pin's edge (R190): its ports are closed, its queues empty, its timers stopped. -/
theorem State.AtPowerOn.exec_fixed (porst : s.pins.porst = true) {c : Instr} (edge : isPinEdge c = false) :
    exec c s = .next s := by
  obtain ⟨tu, obt, tc, su, ma, -⟩ := id h
  cases hb : busByte c with
  | some v => rw [exec_of_busByte hb, show takeByte v s = s from if_pos porst]
  | none =>
    have stays {u : State} (k : u = s) : (.next u : Host.Outcome State Fault Refusal) = .next s := congrArg _ k
    cases c with
    | readRequest q t a n => exact stays (arrive_of_reset _ (.inl porst))
    | writeRequest q t a d m => exact stays (arrive_of_reset _ (.inl porst))
    | responseSent => exact stays (sendResponse_nil (by rw [tu]; rfl))
    | admissionExamination => exact stays (examineAdmission_nil (by rw [obt]; rfl))
    | bufferWaitExamination =>
      exact stays ((congrArg Machine.run (examineBuffers_waits _ (.inl (by rw [obt]; rfl)))).trans h.run)
    | allocationExamination => exact exec_allocationExamination_nil (by rw [tc]; rfl)
    | retryTimerExpiry l => exact exec_retryTimerExpiry_stopped (by rw [h.line]; rfl)
    | pacingTimerExpiry => exact exec_pacingTimerExpiry_stopped (by rw [su]; rfl)
    | requestGrant =>
      exact stays
        (grantRequests_of_next_none (MemoryArbiter.next_none (by rw [ma]; rfl) (by rw [ma]; rfl) (by rw [ma]; rfl)) 16)
    | downstreamResponse t ok d => exact stays (if_pos porst)
    | responseTimerExpiry t =>
      have free : responseExpired t s = s := by
        unfold responseExpired
        rw [h.downTag]
        rfl
      exact stays free
    | quarantineTimerExpiry t => exact stays (if_neg (by rw [h.downTag]; decide))
    | logHeadRead m => exact stays (if_neg (by simp [porst]))
    | startCondition => exact stays (if_pos porst)
    | stopCondition => exact stays (if_pos porst)
    | frstAsserted | frstReleased | porstAsserted | porstReleased => cases edge
    | _ => cases hb
end

/-- Every command keeps the law of PORST#: the assertion makes it true, the release ends it, an edge of FRST# moves its own pin alone,
and the others neither move a pin nor, with PORST# asserted, change a unit. -/
theorem exec_heldLaw {c : Instr} {s t : State} (h : heldLaw s) (e : exec c s = .next t) : heldLaw t := by
  cases edge : isPinEdge c with
  | false =>
    intro porst
    have asserted : s.pins.porst = true := by rwa [← exec_pins edge e]
    have held : s.AtPowerOn := (heldLaw_iff s).mp h asserted
    rw [← Host.Outcome.next.inj ((held.exec_fixed asserted edge).symm.trans e)]
    exact held
  | true =>
    cases c with
    | porstAsserted => cases e; exact fun _ => assertPorst_atPowerOn s
    | porstReleased a =>
      rw [← Host.Outcome.next.inj e]
      split
      · exact fun asserted => nomatch asserted
      · exact h
    | frstAsserted =>
      rw [← Host.Outcome.next.inj e]
      intro porst
      have pins : (assertFrst s).pins = { s.pins with frst := true } := (moves_run (moves_abandonAll .refl)).pins
      rw [pins] at porst
      have held : s.AtPowerOn := (heldLaw_iff s).mp h porst
      rw [held.assertFrst]
      exact held
    | frstReleased => cases e; exact h
    | _ => cases edge

/-- Settles O57: the empty queue idles, and every command keeps the law of PORST#. -/
theorem everyStepKeepsThePartHeldInReset : Obligations.EveryStepKeepsThePartHeldInReset := by
  intro s t h e
  unfold step at e
  split at e
  · cases e; exact h
  · next c rest _ => exact exec_heldLaw (s := s.withPending rest) h e

end Sys2Proof.Machine
end

section
/-! PROOFS. An arriving request that the lookup refuses: its classification at each step that can refuse, and the slot and record it
leaves (R9, R149, R150); and the response at the head of its queue (R153). -/

namespace Sys2Proof.Machine

/-! ## The tag area of the lowest byte (R9, R150) -/

/-- Where a request from `a` first meets the tag area of a region it touches. -/
def State.tagMeeting (s : State) (a : Nat) (r : RegionId) : Nat := max a (s.region r).tagBase

theorem lowerTagArea_some (s : State) (a : Nat) (best r : RegionId) :
    lowerTagArea s a (some best) r = some (if s.tagMeeting a r < s.tagMeeting a best then r else best) :=
  (apply_ite some _ _ _).symm

/-- Of several tag areas the one met first is kept, wherever it stands among them. -/
theorem foldl_lowerTagArea {s : State} {a : Nat} {q : RegionId} (rs : List RegionId) (best : Option RegionId)
    (first : ∀ r ∈ rs, r ≠ q → s.tagMeeting a q < s.tagMeeting a r)
    (found : best = some q ∨ q ∈ rs ∧ ∀ b, best = some b → s.tagMeeting a q < s.tagMeeting a b) :
    rs.foldl (lowerTagArea s a) best = some q := by
  induction rs generalizing best with
  | nil =>
    obtain found | ⟨absent, -⟩ := found
    · exact found
    · cases absent
  | cons r rs ih =>
    have rest : ∀ x ∈ rs, x ≠ q → s.tagMeeting a q < s.tagMeeting a x := fun x hx => first x (List.mem_cons_of_mem r hx)
    refine ih (lowerTagArea s a best r) rest ?_
    by_cases here : r = q
    · subst here
      left
      obtain rfl | ⟨-, ahead⟩ := found
      · rw [lowerTagArea_some, if_neg (Nat.lt_irrefl _)]
      · cases best with
        | none => rfl
        | some b => rw [lowerTagArea_some, if_pos (ahead b rfl)]
    · have later : s.tagMeeting a q < s.tagMeeting a r := first r List.mem_cons_self here
      obtain rfl | ⟨among, ahead⟩ := found
      · left
        rw [lowerTagArea_some, if_neg (Nat.lt_asymm later)]
      · right
        refine ⟨(List.mem_cons.mp among).resolve_left (Ne.symm here), fun b hb => ?_⟩
        cases best with
        | none => cases hb; exact later
        | some c =>
          rw [lowerTagArea_some] at hb
          cases hb
          split
          · exact later
          · exact ahead c rfl

theorem tagAreaAt_some {s : State} {sl : Slot} {q : RegionId} (touched : s.touchesTags sl q)
    (first : ∀ r, s.touchesTags sl r → r ≠ q → s.tagMeeting sl.address.toNat q < s.tagMeeting sl.address.toNat r) :
    s.tagAreaAt sl.address.toNat sl.length = some q := by
  refine foldl_lowerTagArea _ none (fun r hr => first r ?_) (.inr ⟨?_, nofun⟩)
  · exact (tagAreaTouched_iff s sl r).mp (List.mem_filter.mp hr).2
  · exact List.mem_filter.mpr ⟨List.mem_finRange q, (tagAreaTouched_iff s sl q).mpr touched⟩

/-! ## The steps of the lookup that refuse (R149, R9) -/

section
variable {s : State} {sl : Slot}

theorem classify_malformed (h : s.isMalformed sl) : classify s sl = ⟨.refused .malformed, none, none, none⟩ :=
  if_pos ((malformed_iff s sl).mpr h)

theorem classify_wellFormed (h : ¬ s.isMalformed sl) : classify s sl = lookupRegion s sl := if_neg (mt (malformed_iff s sl).mp h)

/-- A request that touches a tag area is denied, with the region whose tag area it meets first (R9 step 1). -/
theorem classify_tagArea {q : RegionId} (formed : ¬ s.isMalformed sl) (touched : s.touchesTags sl q)
    (first : ∀ r, s.touchesTags sl r → r ≠ q → s.tagMeeting sl.address.toNat q < s.tagMeeting sl.address.toNat r) :
    classify s sl = ⟨.refused .denied, none, some q, none⟩ := by
  rw [classify_wellFormed formed, lookupRegion, tagAreaAt_some touched first]

/-- A request that reaches no region is denied where the policy is to deny (R9 step 2). -/
theorem classify_unmapped (formed : ¬ s.isMalformed sl) (noTags : ∀ q, ¬ s.touchesTags sl q)
    (noRange : ∀ q, ¬ s.inRange sl.address.toNat q) (deny : s.ru.unmapped = .deny) :
    classify s sl = ⟨.refused .denied, none, none, none⟩ := by
  rw [classify_wellFormed formed, lookupRegion, tagAreaAt_none noTags, regionAt_none noRange]
  dsimp only
  rw [deny]

variable {r : RegionId} (h : s.reaches sl r)
include h

theorem classify_reaches : classify s sl = lookupInRegion s sl r := by
  obtain ⟨formed, noTags, inRange, only⟩ := h
  rw [classify_wellFormed formed, lookupRegion, tagAreaAt_none noTags, regionAt_some inRange only]

/-- A requester without a partition, or whose partition may not, is denied (R9 steps 3 and 4). -/
theorem classify_denied (denied : s.partitionOf sl = none ∨
      ∃ p, s.partitionOf sl = some p ∧ (vget (s.region r).permissions p).deniesKind sl.kind) :
    classify s sl = ⟨.refused .denied, some r, some r, some ((s.region r).blockOf sl.address.toNat)⟩ := by
  rw [classify_reaches h, lookupInRegion, ← State.partitionOf]
  obtain unassigned | ⟨p, assigned, denied⟩ := denied
  · rw [unassigned]
  · rw [assigned]
    have refused : ¬ (vget (s.region r).permissions p).allows sl.kind = true :=
      mt (Permission.allows_iff _ _).mp (not_not_intro denied)
    exact if_pos (by simpa using refused)

/-- A region out of service, or fenced against a write, is unavailable (R9 step 5). -/
theorem classify_unavailable {p : Fin 8} (assigned : s.partitionOf sl = some p)
    (allowed : ¬ (vget (s.region r).permissions p).deniesKind sl.kind) (refuses : (s.region r).refuses sl.kind = true) :
    classify s sl = ⟨.refused .unavailable, some r, some r, some ((s.region r).blockOf sl.address.toNat)⟩ := by
  rw [classify_reaches h, lookupInRegion, ← State.partitionOf, assigned]
  dsimp only
  rw [if_neg (by simpa using (Permission.allows_iff _ _).mpr allowed), if_pos refuses]
end

/-! ## The slot a refused request leaves behind (R150) -/

theorem refuse_eq (s : State) (i : SlotId) (sl : Slot) (st : Status) (region recordRegion : Option RegionId) (block : Option Nat) :
    refuse i st recordRegion block (s.updSlot i fun _ => { sl with cls := some (.refused st), region := region }) =
      s.refusedAtArrival i sl st region recordRegion block := by
  unfold refuse respond
  rw [updSlot_updSlot, updSlot_slot_same]
  unfold State.refusedAtArrival refusalData
  cases sl.kind <;> rfl

/-- A request accepted into a slot and refused by its lookup is answered at once. -/
theorem exec_refused {c : Instr} {sl : Slot} {s : State} {i : SlotId} (hc : requestSlot c = some sl) (hi : s.accepts i) {st : Status}
    {region recordRegion : Option RegionId} {block : Option Nat}
    (h : classify s sl = ⟨.refused st, region, recordRegion, block⟩) :
    exec c s = .next (s.refusedAtArrival i sl st region recordRegion block) := by
  rw [exec_request hc, arrive_of_accepts sl hi, acceptRequest, h]
  exact congrArg Host.Outcome.next (refuse_eq s i sl st region recordRegion block)

/-- Settles O11: each step of the lookup that refuses, and the answer of a refused request. -/
theorem requestRefusedAtArrival : Obligations.RequestRefusedAtArrival := by
  refine fun c sl s i hc hi => ⟨fun malformed => exec_refused hc hi (classify_malformed malformed), fun formed => ⟨?_, ?_⟩,
    fun r reaches => ⟨fun denied => exec_refused hc hi (classify_denied reaches denied), fun p assigned allowed refused => ?_⟩⟩
  · exact fun q touched first => exec_refused hc hi (classify_tagArea formed touched first)
  · exact fun noTags noRange deny => exec_refused hc hi (classify_unmapped formed noTags noRange deny)
  · exact exec_refused hc hi (classify_unavailable reaches assigned allowed ((Region.refuses_iff _ _).mpr refused))

/-! ## The head of the response queue (R153) -/

theorem sendResponse_cons {s : State} {i : SlotId} {rest : List SlotId} (h : s.tu.responses = i :: rest) :
    sendResponse s = (freeSlot i (s.withTu { s.tu with responses := rest })).withOut
      { s.out with upstream := s.out.upstream ++ (s.slot i).response.toList } := by
  unfold sendResponse
  rw [h]

/-- Settles O13: the empty queue has nothing to send, and a head sends the response its slot holds. -/
theorem responseHeadIsSent : Obligations.ResponseHeadIsSent := by
  refine ⟨fun s h => congrArg Host.Outcome.next (sendResponse_nil h), fun s i rest a h answer => ?_⟩
  refine congrArg Host.Outcome.next ((sendResponse_cons h).trans ?_)
  rw [answer]
  rfl

end Sys2Proof.Machine
end

section
/-! PROOFS. Abandonment (R57, R155, R157): a slot by its state, every slot at one event where none releases, and the one ACTIVE slot by
where its operation stands; then FRST# (R155, R156). -/

namespace Sys2Proof.Machine

/-! ## The queues a slot leaves -/

theorem mem_allSlots (i : SlotId) : i ∈ allSlots := List.mem_finRange i

/-- A queue without the elements whose slot, by `f`, is among `l` and, by `p`, one to leave. -/
def queueWithout {α : Type} (f : α → SlotId) (p : SlotId → Bool) (l : List SlotId) (q : List α) : List α :=
  q.filter fun w => !(l.contains (f w) && p (f w))

section
variable {α : Type} (f : α → SlotId) (p : SlotId → Bool) (l : List SlotId) (q : List α)

theorem queueWithout_nil : queueWithout f p [] q = q := List.filter_eq_self.mpr fun _ _ => rfl

theorem queueWithout_all : queueWithout f p allSlots q = q.filter fun w => !p (f w) :=
  List.filter_congr fun w _ => by
    have among : allSlots.contains (f w) = true := List.contains_iff_mem.mpr (mem_allSlots _)
    rw [among, Bool.true_and]

/-- With one more slot in the list, that slot's elements go if it is one to leave. -/
theorem queueWithout_append (i : SlotId) :
    queueWithout f p (l ++ [i]) q =
      if p i then (queueWithout f p l q).filter (fun w => f w != i) else queueWithout f p l q := by
  split
  · next h =>
    rw [queueWithout, queueWithout, List.filter_filter]
    refine List.filter_congr fun w _ => ?_
    by_cases hw : f w = i <;> simp [hw, h]
  · next h =>
    refine List.filter_congr fun w _ => ?_
    by_cases hw : f w = i <;> simp [hw, h]
end

/-! ## An ACTIVE operation abandoned by where it stands (R57) -/

theorem Slot.readsOut_eq_zero_iff (sl : Slot) : sl.readsOut = 0 ↔ ∀ p ∈ sl.parts, p.readsOut = 0 := by
  rw [Slot.readsOut, ← List.sum_eq_foldl, List.sum_eq_zero_iff_forall_eq_nat, List.forall_mem_map]

section
variable {s : State} {i : SlotId}

/-- Whether an operation holds its blocks is read from its slot and the entries alone. -/
theorem holdsAll_congr {t : State} (slot : t.slot i = s.slot i) (entries : t.obt.entries = s.obt.entries) :
    holdsAll t i = holdsAll s i := by
  unfold holdsAll OpenBlockTable.entry
  rw [slot, entries]

theorem abandonActive_waiting (waits : ¬ holdsAll s i = true) : abandonActive i s = freeSlot i (leaveBlocks (.slot i) s) :=
  if_pos (by simpa using waits)

theorem leaveBufferWait_markAbandoned_slot (s : State) (i : SlotId) :
    (leaveBufferWait i (markAbandoned i s)).slot i = { s.slot i with state := .abandoned, abandoned := true } :=
  updSlot_slot_same s i fun sl => { sl with state := .abandoned, abandoned := true }

variable (holds : holdsAll s i = true)
include holds

theorem abandonActive_committed (committed : (s.slot i).committed = true) : abandonActive i s = markAbandoned i s := by
  rw [abandonActive, holds, if_neg (by simp), if_pos committed]

theorem abandonActive_uncommitted (uncommitted : (s.slot i).committed = false) :
    abandonActive i s = endAbandoned i (leaveBufferWait i (markAbandoned i s)) := by
  rw [abandonActive, holds, if_neg (by simp), if_neg (by simp [uncommitted])]

/-- With a read outstanding the operation runs on, out of the buffer wait FIFO. -/
theorem abandonActive_reading (uncommitted : (s.slot i).committed = false) (reads : (s.slot i).readsOut ≠ 0) :
    abandonActive i s = leaveBufferWait i (markAbandoned i s) := by
  rw [abandonActive_uncommitted holds uncommitted, endAbandoned, leaveBufferWait_markAbandoned_slot]
  exact if_neg reads

/-- With no read outstanding it releases, and its slot is FREE. -/
theorem abandonActive_releases (uncommitted : (s.slot i).committed = false) (noReads : (s.slot i).readsOut = 0) :
    abandonActive i s = freeSlot i (releaseOp (.slot i) (leaveBufferWait i (markAbandoned i s))) := by
  rw [abandonActive_uncommitted holds uncommitted, endAbandoned, endOp, leaveBufferWait_markAbandoned_slot]
  exact (if_pos noReads).trans (if_pos rfl)
end

/-! ## A slot abandoned without a release (R155, R157) -/

/-- A slot after an abandonment that releases no operation. -/
def Slot.abandonedForm (sl : Slot) : Slot :=
  match sl.state with
  | .admitting | .responding => .powerOn
  | .active | .passing => { sl with state := .abandoned, abandoned := true }
  | .free | .classified | .abandoned => sl

/-- `s` with its slots, its response and admission queues and its buffer wait FIFO replaced. -/
def State.withSlotQueues (s : State) (slots : Vector Slot 24) (responses admission : List SlotId) (bufferWait : List (SlotId × Nat)) :
    State :=
  { s with
    tu := { slots := slots, responses := responses }
    obt := { s.obt with admission := admission, bufferWait := bufferWait } }

section
variable (s : State) (v w : Vector Slot 24) (r a r' a' : List SlotId) (b b' : List (SlotId × Nat))
@[simp] theorem withSlotQueues_slots : (s.withSlotQueues v r a b).tu.slots = v := rfl
@[simp] theorem withSlotQueues_responses : (s.withSlotQueues v r a b).tu.responses = r := rfl
@[simp] theorem withSlotQueues_admission : (s.withSlotQueues v r a b).obt.admission = a := rfl
@[simp] theorem withSlotQueues_bufferWait : (s.withSlotQueues v r a b).obt.bufferWait = b := rfl
@[simp] theorem withSlotQueues_withSlotQueues :
    (s.withSlotQueues v r a b).withSlotQueues w r' a' b' = s.withSlotQueues w r' a' b' := rfl
end

theorem vset_eq_self {α : Type} {n : Nat} {v : Vector α n} {i : Fin n} {x : α} (h : vget v i = x) : vset v i x = v := by
  subst h
  simp [vset, vget]

section
variable (s : State) (i : SlotId)

/-- Abandonment does not release slot `i`: if ACTIVE, it holds its blocks and is committed or has a read outstanding (R57). -/
def State.RunsOn : Prop :=
  (s.slot i).state = .active → holdsAll s i = true ∧ ((s.slot i).committed = true ∨ (s.slot i).readsOut ≠ 0)

/-- Whether slot `i` is to leave the response queue. -/
def State.leavesResponses : Bool := (s.slot i).state == .responding

/-- Whether slot `i` is to leave the admission queue. -/
def State.leavesAdmission : Bool := (s.slot i).state == .admitting

/-- Whether slot `i` is to leave the buffer wait FIFO. -/
def State.leavesBufferWait : Bool := (s.slot i).state == .active && !(s.slot i).committed

/-- A slot abandoned without a release takes its new form and leaves the queue it stands in. -/
theorem abandonSlot_runsOn (runsOn : s.RunsOn i) :
    abandonSlot s i = s.withSlotQueues (vset s.tu.slots i (s.slot i).abandonedForm)
      (if s.leavesResponses i then s.tu.responses.filter (· != i) else s.tu.responses)
      (if s.leavesAdmission i then s.obt.admission.filter (· != i) else s.obt.admission)
      (if s.leavesBufferWait i then s.obt.bufferWait.filter (·.1 != i) else s.obt.bufferWait) := by
  unfold abandonSlot Slot.abandonedForm State.leavesResponses State.leavesAdmission State.leavesBufferWait
  cases h : (s.slot i).state with
  | free | classified | abandoned =>
    have kept : vset s.tu.slots i (s.slot i) = s.tu.slots := vset_eq_self rfl
    dsimp only
    rw [kept]
    rfl
  | admitting => rfl
  | responding => rfl
  | passing => rfl
  | active =>
    obtain ⟨holds, going⟩ := runsOn h
    by_cases committed : (s.slot i).committed = true
    · have stays : (SlotState.active == .active && !(s.slot i).committed) = false := by rw [committed]; rfl
      rw [stays]
      exact abandonActive_committed holds committed
    · have leaves : (SlotState.active == .active && !(s.slot i).committed) = true := by rw [Bool.eq_false_iff.mpr committed]; rfl
      rw [leaves]
      exact abandonActive_reading holds (Bool.eq_false_iff.mpr committed) (going.resolve_left committed)
end

/-! ## Every slot abandoned, none released (R155, R157) -/

section
variable (s : State)

/-- The slots of `s` with those of `l` abandoned, none released. -/
def State.slotsAbandoned (l : List SlotId) : Vector Slot 24 :=
  Vector.ofFn fun j => if j ∈ l then (s.slot j).abandonedForm else s.slot j

/-- `s` with the slots of `l` abandoned, none released. -/
def State.abandonedAmong (l : List SlotId) : State :=
  s.withSlotQueues (s.slotsAbandoned l) (queueWithout id s.leavesResponses l s.tu.responses)
    (queueWithout id s.leavesAdmission l s.obt.admission) (queueWithout Prod.fst s.leavesBufferWait l s.obt.bufferWait)

theorem slotsAbandoned_vget (l : List SlotId) (j : SlotId) :
    vget (s.slotsAbandoned l) j = if j ∈ l then (s.slot j).abandonedForm else s.slot j := by
  simp [State.slotsAbandoned, vget]

theorem slotsAbandoned_append (l : List SlotId) (i : SlotId) :
    s.slotsAbandoned (l ++ [i]) = vset (s.slotsAbandoned l) i (s.slot i).abandonedForm := by
  refine vector_ext_vget fun k => ?_
  rw [vget_vset, slotsAbandoned_vget, slotsAbandoned_vget]
  by_cases h : i = k
  · subst h; simp
  · simp [h, Ne.symm h]

theorem abandonedAmong_nil : s.abandonedAmong [] = s := by
  have slots : s.slotsAbandoned [] = s.tu.slots :=
    vector_ext_vget fun k => by rw [slotsAbandoned_vget, if_neg List.not_mem_nil, State.slot]
  rw [State.abandonedAmong, slots, queueWithout_nil, queueWithout_nil, queueWithout_nil]
  rfl

theorem abandonedAmong_append {l : List SlotId} {i : SlotId} (fresh : i ∉ l) (runsOn : s.RunsOn i) :
    abandonSlot (s.abandonedAmong l) i = s.abandonedAmong (l ++ [i]) := by
  have same : (s.abandonedAmong l).slot i = s.slot i := (slotsAbandoned_vget s l i).trans (if_neg fresh)
  have running : (s.abandonedAmong l).RunsOn i := by
    unfold State.RunsOn
    rw [holdsAll_congr same rfl, same]
    exact runsOn
  have responses : (s.abandonedAmong l).leavesResponses i = s.leavesResponses i := by
    rw [State.leavesResponses, same, State.leavesResponses]
  have admission : (s.abandonedAmong l).leavesAdmission i = s.leavesAdmission i := by
    rw [State.leavesAdmission, same, State.leavesAdmission]
  have bufferWait : (s.abandonedAmong l).leavesBufferWait i = s.leavesBufferWait i := by
    rw [State.leavesBufferWait, same, State.leavesBufferWait]
  rw [abandonSlot_runsOn _ i running, responses, admission, bufferWait, same]
  simp only [State.abandonedAmong, withSlotQueues_slots, withSlotQueues_responses, withSlotQueues_admission,
    withSlotQueues_bufferWait, withSlotQueues_withSlotQueues, slotsAbandoned_append, queueWithout_append, id]

/-- Every slot abandoned, where none releases. -/
theorem abandonAll_runsOn (runsOn : ∀ i, s.RunsOn i) :
    abandonAll s = s.withSlotQueues (s.tu.slots.map Slot.abandonedForm) (s.tu.responses.filter fun i => !s.leavesResponses i)
      (s.obt.admission.filter fun i => !s.leavesAdmission i) (s.obt.bufferWait.filter fun w => !s.leavesBufferWait w.1) := by
  have among (l done : List SlotId) (nodup : (done ++ l).Nodup) :
      l.foldl abandonSlot (s.abandonedAmong done) = s.abandonedAmong (done ++ l) := by
    induction l generalizing done with
    | nil => rw [List.append_nil, List.foldl_nil]
    | cons i l ih =>
      obtain ⟨-, -, apart⟩ := List.nodup_append.mp nodup
      have fresh : i ∉ done := fun h => apart i h i List.mem_cons_self rfl
      rw [List.append_cons] at nodup ⊢
      rw [List.foldl_cons, abandonedAmong_append s fresh (runsOn i), ih _ nodup]
  have all : abandonAll s = s.abandonedAmong allSlots := by
    have whole := among allSlots [] (List.nodup_finRange 24)
    rwa [abandonedAmong_nil] at whole
  have slots : s.slotsAbandoned allSlots = s.tu.slots.map Slot.abandonedForm :=
    vector_ext_vget fun k => by rw [slotsAbandoned_vget, if_pos (mem_allSlots k), vget_map, State.slot]
  rw [all, State.abandonedAmong, slots, queueWithout_all, queueWithout_all, queueWithout_all]
  rfl
end

/-! ## One slot alone abandoned -/

theorem freeSlot_slot_of_ne {i j : SlotId} (h : j ≠ i) (s : State) : (freeSlot i s).slot j = s.slot j :=
  (updSlot_slot s i j _).trans (if_neg (Ne.symm h))

theorem markAbandoned_slot_of_ne {i j : SlotId} (h : j ≠ i) (s : State) : (markAbandoned i s).slot j = s.slot j :=
  (updSlot_slot s i j _).trans (if_neg (Ne.symm h))

/-- The abandonment of an ACTIVE slot leaves every other slot as it is. -/
theorem abandonActive_slot_of_ne {i j : SlotId} (h : j ≠ i) (s : State) : (abandonActive i s).slot j = s.slot j := by
  by_cases holds : holdsAll s i = true
  · by_cases committed : (s.slot i).committed = true
    · rw [abandonActive_committed holds committed, markAbandoned_slot_of_ne h]
    · by_cases noReads : (s.slot i).readsOut = 0
      · rw [abandonActive_releases holds (Bool.eq_false_iff.mpr committed) noReads, freeSlot_slot_of_ne h, releaseOp_slot]
        exact markAbandoned_slot_of_ne h s
      · rw [abandonActive_reading holds (Bool.eq_false_iff.mpr committed) noReads]
        exact markAbandoned_slot_of_ne h s
  · rw [abandonActive_waiting holds, freeSlot_slot_of_ne h]
    rfl

/-- With one slot ACTIVE and every other FREE, that slot alone is abandoned. -/
theorem abandonAll_lone {s : State} {i : SlotId} (active : (s.slot i).state = .active)
    (others : ∀ j, j ≠ i → (s.slot j).state = .free) : abandonAll s = abandonActive i s := by
  have here : abandonSlot s i = abandonActive i s := by rw [abandonSlot, active]
  obtain ⟨front, back, cut⟩ := List.append_of_mem (mem_allSlots i)
  have nodup : (front ++ i :: back).Nodup := cut ▸ List.nodup_finRange 24
  obtain ⟨-, nodupBack, apart⟩ := List.nodup_append.mp nodup
  have notFront : ∀ j ∈ front, j ≠ i := fun j hj => apart j hj i List.mem_cons_self
  have notBack : ∀ j ∈ back, j ≠ i := by
    rintro j hj rfl
    exact (List.nodup_cons.mp nodupBack).1 hj
  have frontPassed : front.foldl abandonSlot s = s := foldl_abandonSlot_of_free fun j hj => others j (notFront j hj)
  rw [abandonAll, cut, List.foldl_append, List.foldl_cons, frontPassed, here]
  refine foldl_abandonSlot_of_free fun j hj => ?_
  rw [abandonActive_slot_of_ne (notBack j hj)]
  exact others j (notBack j hj)

/-! ## FRST# (R155, R156) -/

/-- What the assertion of FRST# keeps: the definitions, the programmed values, the registers and the bus. -/
theorem assertFrst_keeps (s : State) : ∃ t : State, exec .frstAsserted s = .next t ∧ t.pins = { s.pins with frst := true } ∧
    (∀ r, (t.region r).sameDefinition (s.region r)) ∧
    t.ru.requesterMap = s.ru.requesterMap ∧ t.ru.unmapped = s.ru.unmapped ∧ t.out = s.out ∧
    t.el.logMask = s.el.logMask ∧ t.el.alertMask = s.el.alertMask ∧ t.su.pacing = s.su.pacing ∧
    t.ma.timeout = s.ma.timeout ∧ t.ma.share = s.ma.share ∧ t.mp.params = s.mp.params ∧ t.mp.results = s.mp.results ∧
    t.mp.overrun = s.mp.overrun ∧ t.mp.offset = s.mp.offset ∧ t.mp.phase = s.mp.phase := by
  have m : Moves (s.withPins { s.pins with frst := true }) (assertFrst s) := moves_run (moves_abandonAll .refl)
  obtain ⟨requesters, unmapped, -⟩ := m.ru
  obtain ⟨logMask, alertMask⟩ := m.masks
  obtain ⟨-, pacing, -⟩ := m.su
  obtain ⟨timeout, share, -⟩ := m.arbiter
  obtain ⟨⟨-, phase, offset, overrun, params, results, -⟩, -⟩ := m.mp
  exact ⟨assertFrst s, rfl, m.pins, m.sameDefinition, requesters, unmapped, m.out, logMask, alertMask, pacing, timeout, share, params,
    results, overrun, offset, phase⟩

section
variable {s : State} (work : s.work = []) (noReset : ∀ d, s.mp.long ≠ some (.resetEngine d))
include work noReset

/-- An abandonment that sets off no internal event is the whole of the assertion. -/
theorem exec_frstAsserted_quiet {t : State} (h : abandonAll (s.withPins { s.pins with frst := true }) = t) (quiet : t.work = s.work)
    (long : t.mp.long = s.mp.long) : exec .frstAsserted s = .next t := by
  refine congrArg Host.Outcome.next ?_
  rw [assertFrst, h, run_nil t (quiet.trans work), endReset_none t (by rwa [long])]

/-- With no slot ACTIVE, CLASSIFIED or ABANDONED the assertion frees the slots that wait to be admitted or sent, marks the PASSING ones,
and does no more. -/
theorem exec_frstAsserted_noOperation (kinds : ∀ i, (s.slot i).state = .free ∧ s.slot i = Slot.powerOn ∨
      (s.slot i).state = .admitting ∨ (s.slot i).state = .responding ∨ (s.slot i).state = .passing) :
    exec .frstAsserted s = .next { s with
      pins := { s.pins with frst := true }
      tu := {
        slots := s.tu.slots.map fun sl =>
          if sl.state = .passing then { sl with state := .abandoned, abandoned := true } else Slot.powerOn
        responses := s.tu.responses.filter fun i => (s.slot i).state != .responding }
      obt := { s.obt with admission := s.obt.admission.filter fun i => (s.slot i).state != .admitting } } := by
  have notActive (i : SlotId) : (s.slot i).state ≠ .active := by
    obtain ⟨h, -⟩ | h | h | h := kinds i <;> simp [h]
  have slots : s.tu.slots.map Slot.abandonedForm = s.tu.slots.map fun sl =>
      if sl.state = .passing then { sl with state := .abandoned, abandoned := true } else Slot.powerOn := by
    refine vector_ext_vget fun i => ?_
    rw [vget_map, vget_map, ← State.slot]
    obtain ⟨h, free⟩ | h | h | h := kinds i
    · rw [free]; rfl
    all_goals simp [Slot.abandonedForm, h]
  have bufferWait : (s.obt.bufferWait.filter fun w => !s.leavesBufferWait w.1) = s.obt.bufferWait :=
    List.filter_eq_self.mpr fun w _ => by simp [State.leavesBufferWait, notActive w.1]
  have all : abandonAll (s.withPins { s.pins with frst := true }) = (s.withPins { s.pins with frst := true }).withSlotQueues
      (s.tu.slots.map Slot.abandonedForm) (s.tu.responses.filter fun i => !s.leavesResponses i)
      (s.obt.admission.filter fun i => !s.leavesAdmission i) (s.obt.bufferWait.filter fun w => !s.leavesBufferWait w.1) :=
    abandonAll_runsOn (s.withPins { s.pins with frst := true }) fun i active => absurd active (notActive i)
  rw [slots, bufferWait] at all
  exact exec_frstAsserted_quiet work noReset all rfl rfl
end

/-- A slot whose operation holds no entry of one of its blocks waits for it. -/
theorem not_holdsAll_of_waiting {s : State} {i : SlotId} {r : RegionId} (region : (s.slot i).region = some r)
    (waits : ∃ p ∈ (s.slot i).parts,
      ∀ e ∈ s.obt.entries, e.region = r → e.block = p.block → ∀ h ∈ e.holders, h.1 ≠ .slot i) :
    ¬ holdsAll s i = true := by
  intro holds
  obtain ⟨p, hp, none⟩ := waits
  obtain ⟨e, he, m, hm⟩ := (holdsAll_iff region).mp holds p hp
  obtain ⟨mem, hr, hb⟩ := entry_some he
  exact none e mem hr hb (.slot i, m) hm rfl

theorem holdsAll_of_holding {s : State} {i : SlotId} {r : RegionId} (region : (s.slot i).region = some r)
    (holding : ∀ p ∈ (s.slot i).parts, ∃ e, s.obt.entry r p.block = some e ∧ ∃ h ∈ e.holders, h.1 = .slot i) :
    holdsAll s i = true := by
  refine (holdsAll_iff region).mpr fun p hp => ?_
  obtain ⟨e, he, ⟨_, m⟩, hm, rfl⟩ := holding p hp
  exact ⟨e, he, m, hm⟩

/-- Settles O49: the release of the pin, what the assertion keeps, the slots without an operation, and the one ACTIVE slot by where its
operation stands. -/
theorem fabricResetAbandonsTheSlots : Obligations.FabricResetAbandonsTheSlots := by
  refine ⟨fun s => rfl, assertFrst_keeps, fun s => exec_frstAsserted_noOperation, fun s i r work noReset active region others => ?_⟩
  have lone : abandonAll (s.withPins { s.pins with frst := true }) = abandonActive i (s.withPins { s.pins with frst := true }) :=
    abandonAll_lone active others
  refine ⟨fun waits => ?_, fun holding => ?_⟩
  · have left := lone.trans (abandonActive_waiting (not_holdsAll_of_waiting region waits))
    exact congrArg Host.Outcome.next (congrArg run left)
  · have holds : holdsAll (s.withPins { s.pins with frst := true }) i = true := holdsAll_of_holding region holding
    refine ⟨fun committed => ?_, fun uncommitted => ⟨fun ⟨p, hp, reads⟩ => ?_, fun noReads => ?_⟩⟩
    · exact exec_frstAsserted_quiet work noReset (lone.trans (abandonActive_committed holds committed)) rfl rfl
    · have reading : (s.slot i).readsOut ≠ 0 := fun zero => reads ((Slot.readsOut_eq_zero_iff _).mp zero p hp)
      exact exec_frstAsserted_quiet work noReset (lone.trans (abandonActive_reading holds uncommitted reading)) rfl rfl
    · have released := lone.trans (abandonActive_releases holds uncommitted ((Slot.readsOut_eq_zero_iff _).mpr noReads))
      exact congrArg Host.Outcome.next (congrArg run released)

end Sys2Proof.Machine
end

section
/-! PROOFS. Every step keeps the downstream tags (R160, R163, R164), the job queue (R113) and the ranges of the programmed values (R121,
R162, R167, R168): a cascade keeps all three, and outside it only a grant, a response, an expiry, a job's acceptance, the three settings
and a reset write what the laws speak of. -/

namespace Sys2Proof.Machine

/-! ## From one state to another -/

/-- From `s` to `t`, each of the three laws that holds goes on holding. -/
structure LawsKept (s t : State) : Prop where
  tags : tagsLaw s → tagsLaw t
  jobs : jobsLaw s → jobsLaw t
  ranges : rangesLaw s → rangesLaw t

/-- A cascade writes no programmed value and not the sweep-share counter. -/
theorem Moves.rangesLaw {s t : State} (m : Moves s t) (h : rangesLaw s) : rangesLaw t := by
  obtain ⟨timeout, share, counter⟩ := m.arbiter
  obtain ⟨-, pacing, -⟩ := m.su
  unfold Machine.rangesLaw at h ⊢
  rw [timeout, share, counter, pacing]
  exact h

/-- The laws of an arbiter and a sweep unit at power-on. -/
theorem lawsKept_of_powerOn (s : State) {t : State} (ma : t.ma = .powerOn) (su : t.su = .powerOn) : LawsKept s t where
  tags _ d := by
    rw [State.downTag, ma]
    exact tagsLaw_reset d
  jobs _ := by
    unfold jobsLaw
    rw [su]
    decide
  ranges _ := by
    unfold rangesLaw
    rw [ma, su]
    decide

section
variable {s t u : State}

theorem LawsKept.trans (h : LawsKept s t) (k : LawsKept t u) : LawsKept s u :=
  ⟨k.tags ∘ h.tags, k.jobs ∘ h.jobs, k.ranges ∘ h.ranges⟩

/-- The laws speak of the Memory Arbiter and the Sweep Unit alone. -/
theorem lawsKept_of_units (ma : t.ma = s.ma) (su : t.su = s.su) : LawsKept s t where
  tags h d := by
    rw [State.downTag, ma]
    exact h d
  jobs h := by
    unfold jobsLaw
    rw [su]
    exact h
  ranges h := by
    unfold rangesLaw
    rw [ma, su]
    exact h

theorem Moves.lawsKept (m : Moves t u) (h : LawsKept s t) : LawsKept s u := h.trans ⟨m.tagsLaw, m.jobsLaw, m.rangesLaw⟩

theorem lawsKept_of_moves (m : Moves s t) : LawsKept s t := m.lawsKept (lawsKept_of_units rfl rfl)

theorem finishCommand_lawsKept (k : ResultCode) : LawsKept s (finishCommand k s) := lawsKept_of_units rfl rfl

/-- A command answered in the result registers. -/
theorem answered_lawsKept (bs : List Byte) : LawsKept s (finishCommand .doneOk (writeResults 0 bs s)) :=
  lawsKept_of_units (by rw [finishCommand_ma, writeResults_ma]) (by rw [finishCommand_su, writeResults_su])

theorem withEl_lawsKept (x : EventLog) : LawsKept s (s.withEl x) := lawsKept_of_units rfl rfl

/-- A tag is replaced by one whose fields agree. -/
theorem setDownTag_lawsKept (t : DownTagId) {x : DownTag} (h : (s.downTag t).consistent → x.consistent) :
    LawsKept s (s.setDownTag t x) where
  tags law d := by
    rw [setDownTag_downTag]
    split
    · exact h (law t)
    · exact law d
  jobs law := law
  ranges law := law

/-- A job accepted with room in the queue: its ID is one no job holds, and so is the counter's (R113). -/
theorem acceptJob_lawsKept (k : JobKind) (r : RegionId) (first count : Nat) (fe : Option Epoch) (room : s.su.jobs.length < 4) :
    LawsKept s (acceptJob k r first count fe s) where
  tags law := law
  jobs law := by
    obtain ⟨-, distinct, nonzero, started⟩ := law
    have fresh : ∀ j ∈ s.su.jobs, j.id ≠ s.su.idToGive := freeJobId_free (by omega) (by omega) started
    have given : s.su.idToGive ≠ 0 := freeJobId_ne_zero _ _ started
    have ids : (s.su.accept k r first count fe).jobs.map (·.id) = s.su.jobs.map (·.id) ++ [s.su.idToGive] := List.map_append
    have longer : (s.su.accept k r first count fe).jobs.length = s.su.jobs.length + 1 := List.length_append
    refine ⟨?_, ?_, ?_, freeJobId_ne_zero _ _ (jobIdAfter_ne_zero _)⟩
    · exact Nat.le_trans (Nat.le_of_eq longer) room
    · show ((s.su.accept k r first count fe).jobs.map (·.id)).Nodup
      rw [ids, List.nodup_append]
      refine ⟨distinct, List.pairwise_singleton _ _, fun a ha b hb => ?_⟩
      obtain ⟨j, hj, rfl⟩ := List.mem_map.mp ha
      exact List.mem_singleton.mp hb ▸ fresh j hj
    · show 0 ∉ (s.su.accept k r first count fe).jobs.map (·.id)
      rw [ids, List.mem_append, List.mem_singleton]
      exact not_or.mpr ⟨nonzero, given.symm⟩
  ranges law := law

/-- A job accepted, and its ID given as the command's result. -/
theorem acceptJob_answered_lawsKept (k : JobKind) (r : RegionId) (first count : Nat) (fe : Option Epoch) (bs : List Byte)
    (room : ¬ queueFull s = true) :
    LawsKept s (finishCommand .doneOk (writeResults 0 bs (acceptJob k r first count fe s))) := by
  have fits : s.su.jobs.length < 4 := Nat.lt_of_not_le (mt (queueFull_iff s).mpr room)
  exact (acceptJob_lawsKept k r first count fe fits).trans (answered_lawsKept _)

end

/-! ## Mailbox commands -/

section
variable (c : Command) (s : State)

/-- A command on a region keeps the laws when it does so for the region it names. -/
theorem onRegion_lawsKept {f : RegionId → State → State} (hf : ∀ r, LawsKept s (f r s)) : LawsKept s (onRegion c f s) := by
  unfold onRegion
  split
  · exact finishCommand_lawsKept _
  · exact hf _

theorem cmdDefineRegion_lawsKept : LawsKept s (cmdDefineRegion c s) := by
  refine onRegion_lawsKept c s fun r => ?_
  unfold defineRegion
  repeat' split
  all_goals exact lawsKept_of_units rfl rfl

theorem cmdClearRegion_lawsKept : LawsKept s (cmdClearRegion c s) := by
  refine onRegion_lawsKept c s fun r => ?_
  unfold clearRegion
  repeat' split
  all_goals exact lawsKept_of_units rfl rfl

theorem cmdSetAccess_lawsKept : LawsKept s (cmdSetAccess c s) := by
  unfold cmdSetAccess
  repeat' split
  all_goals exact lawsKept_of_units rfl rfl

theorem cmdMapRequester_lawsKept : LawsKept s (cmdMapRequester c s) := by
  unfold cmdMapRequester
  split <;> exact lawsKept_of_units rfl rfl

theorem cmdSetUnmappedPolicy_lawsKept : LawsKept s (cmdSetUnmappedPolicy c s) := by
  unfold cmdSetUnmappedPolicy
  split <;> exact lawsKept_of_units rfl rfl

theorem cmdUnfence_lawsKept : LawsKept s (cmdUnfence c s) := by
  refine onRegion_lawsKept c s fun r => ?_
  split <;> exact lawsKept_of_units rfl rfl

theorem cmdSetHealth_lawsKept : LawsKept s (cmdSetHealth c s) := by
  refine onRegion_lawsKept c s fun r => ?_
  unfold setHealth
  repeat' split
  all_goals exact lawsKept_of_units rfl rfl

theorem cmdSetLogMask_lawsKept : LawsKept s (cmdSetLogMask c s) := by
  unfold cmdSetLogMask
  split <;> exact lawsKept_of_units rfl rfl

theorem cmdSetAlertMask_lawsKept : LawsKept s (cmdSetAlertMask c s) := by
  unfold cmdSetAlertMask
  split
  · exact (withEl_lawsKept _).trans (finishCommand_lawsKept _)
  · exact finishCommand_lawsKept _

/-- ACTIVATE of a part-formatted region queues a FORMAT job, with room for it (R119, R132). -/
theorem cmdActivate_lawsKept : LawsKept s (cmdActivate c s) := by
  refine (moves_run .refl).lawsKept (onRegion_lawsKept c s fun r => ?_)
  unfold activate
  split
  · exact finishCommand_lawsKept _
  · split
    · split
      · exact finishCommand_lawsKept _
      · next room =>
        have formatting : LawsKept s (s.updRegion r fun g => { g with state := .formatting }) := lawsKept_of_units rfl rfl
        exact (moves_startNext .refl).lawsKept (formatting.trans (acceptJob_answered_lawsKept _ _ _ _ _ _ room))
    · exact lawsKept_of_units rfl rfl

theorem cmdDeactivate_lawsKept : LawsKept s (cmdDeactivate c s) := by
  refine (moves_run .refl).lawsKept (onRegion_lawsKept c s fun r => ?_)
  unfold deactivate
  split
  · exact (moves_push _ (moves_cancelJobs _ .refl)).lawsKept (lawsKept_of_units rfl rfl)
  · exact finishCommand_lawsKept _

theorem cmdFormat_lawsKept : LawsKept s (cmdFormat c s) := by
  refine (moves_run .refl).lawsKept (onRegion_lawsKept c s fun r => ?_)
  unfold formatRegion
  split
  · exact finishCommand_lawsKept _
  · split
    · exact finishCommand_lawsKept _
    · next room =>
      have formatted : LawsKept s (s.updRegion r Region.formatted) := lawsKept_of_units rfl rfl
      exact (moves_cancelJobs _ .refl).lawsKept (formatted.trans (acceptJob_answered_lawsKept _ _ _ _ _ _ room))

theorem queueRange_lawsKept (k : JobKind) (r : RegionId) : LawsKept s (queueRange k c r s) := by
  unfold queueRange
  split
  · exact finishCommand_lawsKept _
  · split
    · exact finishCommand_lawsKept _
    · next room =>
      exact (moves_startNext .refl).lawsKept (acceptJob_answered_lawsKept _ _ _ _ _ _ room)

theorem cmdScrub_lawsKept : LawsKept s (cmdScrub c s) := by
  refine (moves_run .refl).lawsKept (onRegion_lawsKept c s fun r => ?_)
  unfold scrubRegion
  split
  · exact finishCommand_lawsKept _
  · exact queueRange_lawsKept c s _ r

theorem cmdReblank_lawsKept : LawsKept s (cmdReblank c s) := by
  refine (moves_run .refl).lawsKept (onRegion_lawsKept c s fun r => ?_)
  unfold reblankRegion
  split
  · exact finishCommand_lawsKept _
  · exact queueRange_lawsKept c s _ r

theorem cmdCancelSweep_lawsKept : LawsKept s (cmdCancelSweep c s) := by
  unfold cmdCancelSweep
  split
  · exact finishCommand_lawsKept _
  · split
    · exact finishCommand_lawsKept _
    · split
      · exact finishCommand_lawsKept _
      · exact (moves_run (moves_cancelJobs _ .refl)).lawsKept (finishCommand_lawsKept _)

theorem cmdFlush_lawsKept : LawsKept s (cmdFlush c s) := by
  unfold cmdFlush
  split
  · exact finishCommand_lawsKept _
  · exact (moves_makeFlush _ _ .refl).lawsKept (lawsKept_of_units rfl rfl)

/-- SET PACING takes 0 to 65535 (R121). -/
theorem cmdSetPacing_lawsKept : LawsKept s (cmdSetPacing c s) := by
  by_cases bad : 65535 < c.field 0 4
  · rw [cmdSetPacing_badParam bad]
    exact finishCommand_lawsKept _
  · have inRange := Nat.le_of_not_lt bad
    rw [cmdSetPacing_inRange inRange]
    exact ⟨id, id, fun ⟨low, high, share1, share16, counter, _⟩ => ⟨low, high, share1, share16, counter, inRange⟩⟩

/-- SET TIMEOUT takes 1 to 1023 (R167). -/
theorem cmdSetTimeout_lawsKept : LawsKept s (cmdSetTimeout c s) := by
  by_cases bad : c.field 0 2 = 0 ∨ 1023 < c.field 0 2
  · rw [cmdSetTimeout_badParam bad]
    exact finishCommand_lawsKept _
  · obtain ⟨low, high⟩ : 1 ≤ c.field 0 2 ∧ c.field 0 2 ≤ 1023 := by omega
    rw [cmdSetTimeout_inRange low high]
    exact ⟨id, id, fun ⟨_, _, rest⟩ => ⟨low, high, rest⟩⟩

/-- SET SWEEP SHARE takes 1 to 16 (R168). -/
theorem cmdSetSweepShare_lawsKept : LawsKept s (cmdSetSweepShare c s) := by
  by_cases bad : c.field 0 1 = 0 ∨ 16 < c.field 0 1
  · rw [cmdSetSweepShare_badParam bad]
    exact finishCommand_lawsKept _
  · obtain ⟨low, high⟩ : 1 ≤ c.field 0 1 ∧ c.field 0 1 ≤ 16 := by omega
    rw [cmdSetSweepShare_inRange low high]
    exact ⟨id, id, fun ⟨timeout1, timeout1023, _, _, rest⟩ => ⟨timeout1, timeout1023, low, high, rest⟩⟩

/-- A tag whose request is changed keeps its fields in agreement. -/
theorem DownTag.consistent_mapRequest (f : Request → Request) {d : DownTag} (h : d.consistent) :
    ({ d with request := d.request.map f } : DownTag).consistent := by
  obtain ⟨state, request, timeout, response, quarantine⟩ := d
  cases state with
  | free => cases h; rfl
  | inFlight | quarantined =>
    obtain ⟨carries, timers⟩ := h
    exact ⟨Option.isSome_map.trans carries, timers⟩

/-- The marks of RESET ENGINE stand in the requests alone (R169). -/
theorem markReset_lawsKept : LawsKept s (markReset s) where
  tags law d := by
    have marked : (markReset s).downTag d = { s.downTag d with
        request := (s.downTag d).request.map (fun q => { q with inReset := (s.downTag d).state == .inFlight }) } := vget_map ..
    rw [marked]
    exact DownTag.consistent_mapRequest _ (law d)
  jobs law := law
  ranges law := law

theorem cmdResetEngine_lawsKept : LawsKept s (cmdResetEngine s) := by
  have started : LawsKept s (startLong (.resetEngine false) s) := lawsKept_of_units rfl rfl
  have drained : LawsKept s (drainRegions (markReset (startLong (.resetEngine false) s))) :=
    (started.trans (markReset_lawsKept _)).trans (lawsKept_of_units rfl rfl)
  exact (moves_run (moves_push _ (moves_abandonAll (moves_cancelJobs _ .refl)))).lawsKept drained

/-- Every mailbox command keeps the laws: each of the 25 by its own lemma or by the units it leaves alone, and a code that names none
is refused. -/
theorem runCommand_lawsKept : LawsKept s (runCommand c s) := by
  unfold runCommand
  split
  · exact cmdDefineRegion_lawsKept c s
  · exact cmdClearRegion_lawsKept c s
  · exact onRegion_lawsKept c s fun _ => answered_lawsKept _
  · exact cmdSetAccess_lawsKept c s
  · exact cmdMapRequester_lawsKept c s
  · exact cmdSetUnmappedPolicy_lawsKept c s
  · exact cmdActivate_lawsKept c s
  · exact cmdDeactivate_lawsKept c s
  · exact cmdUnfence_lawsKept c s
  · exact cmdSetHealth_lawsKept c s
  · exact onRegion_lawsKept c s fun _ => lawsKept_of_units rfl rfl
  · exact onRegion_lawsKept c s fun _ => lawsKept_of_units rfl rfl
  · exact cmdFormat_lawsKept c s
  · exact cmdScrub_lawsKept c s
  · exact cmdReblank_lawsKept c s
  · exact cmdCancelSweep_lawsKept c s
  · exact cmdSetPacing_lawsKept c s
  · exact answered_lawsKept _
  · exact cmdFlush_lawsKept c s
  · exact cmdSetTimeout_lawsKept c s
  · exact cmdSetSweepShare_lawsKept c s
  · exact cmdSetLogMask_lawsKept c s
  · exact cmdSetAlertMask_lawsKept c s
  · exact (withEl_lawsKept _).trans (finishCommand_lawsKept _)
  · exact cmdResetEngine_lawsKept s
  · exact finishCommand_lawsKept _
end

/-! ## Bytes on the bus -/

/-- A byte written to a register: the command register alone can reach a unit the laws speak of. -/
theorem writeRegister_lawsKept (off v : Byte) (s : State) : LawsKept s (writeRegister off v s) := by
  unfold writeRegister
  split
  · exact lawsKept_of_units rfl rfl
  · split
    · unfold writeCommand
      split
      · exact lawsKept_of_units rfl rfl
      · have handed : LawsKept s (handOver v s) := lawsKept_of_units rfl rfl
        exact handed.trans (runCommand_lawsKept _ _)
    · split
      · exact withEl_lawsKept _
      · split
        · exact lawsKept_of_units (withMp_ma ..) (withMp_su ..)
        · exact lawsKept_of_units rfl rfl

theorem takeByte_lawsKept (v : Byte) (s : State) : LawsKept s (takeByte v s) := by
  unfold takeByte
  split
  · exact lawsKept_of_units rfl rfl
  · split
    · unfold takeAddress
      split <;> exact lawsKept_of_units rfl rfl
    · exact lawsKept_of_units rfl rfl
    · have accepted : LawsKept s (acceptData s) := lawsKept_of_units rfl rfl
      exact accepted.trans (writeRegister_lawsKept _ _ _)
    all_goals exact lawsKept_of_units rfl rfl

/-! ## Grants, responses and expiries -/

/-- The class order leaves the tags and the programmed values, and raises the sweep-share counter only below the share (R162). -/
theorem MemoryArbiter.next_keeps {m m' : MemoryArbiter} {q : Request} (h : m.next = some (q, m')) :
    m'.tags = m.tags ∧ m'.timeout = m.timeout ∧ m'.share = m.share ∧
      (m'.shareCounter ≤ m.shareCounter ∨ m'.shareCounter ≤ m.share) := by
  unfold MemoryArbiter.next at h
  split at h
  · cases h; exact ⟨rfl, rfl, rfl, .inl (Nat.le_refl _)⟩
  · split at h
    · cases h
    · cases h; exact ⟨rfl, rfl, rfl, .inl (Nat.zero_le _)⟩
    · cases h; exact ⟨rfl, rfl, rfl, .inl (Nat.le_refl _)⟩
    · split at h
      · cases h; exact ⟨rfl, rfl, rfl, .inl (Nat.zero_le _)⟩
      · next below => cases h; exact ⟨rfl, rfl, rfl, .inr (Nat.lt_of_not_le below)⟩

/-- A grant puts its request IN_FLIGHT on its tag, and nothing else on a tag (R163). -/
theorem grantTo_lawsKept {s : State} {m : MemoryArbiter} {q : Request} (t : DownTagId) (h : s.ma.next = some (q, m)) :
    LawsKept s (grantTo t q m s) := by
  obtain ⟨tags, timeout, share, counter⟩ := MemoryArbiter.next_keeps h
  refine ⟨fun law d => ?_, id, fun law => ?_⟩
  · have read : (grantTo t q m s).downTag d = if t = d then grantedTag m.timeout q else s.downTag d := by
      rw [State.downTag, State.downTag, ← tags]
      exact vget_vset ..
    rw [read]
    split
    · exact ⟨rfl, rfl, rfl⟩
    · exact law d
  · obtain ⟨timeout1, timeout1023, share1, share16, counter16, pacing⟩ := law
    unfold rangesLaw
    rw [show (grantTo t q m s).ma.timeout = s.ma.timeout from timeout, show (grantTo t q m s).ma.share = s.ma.share from share]
    refine ⟨timeout1, timeout1023, share1, share16, ?_, pacing⟩
    show m.shareCounter ≤ 16
    omega

theorem grantRequests_lawsKept (n : Nat) (s : State) : LawsKept s (grantRequests n s) := by
  induction n generalizing s with
  | zero => exact lawsKept_of_units rfl rfl
  | succ n ih =>
    unfold grantRequests
    split
    · exact lawsKept_of_units rfl rfl
    · next t _ =>
      split
      · exact lawsKept_of_units rfl rfl
      · next q m chosen => exact (grantTo_lawsKept t chosen).trans (ih _)

/-- A freed tag holds its power-on fields. -/
theorem freeTag_lawsKept (t : DownTagId) (s : State) : LawsKept s (s.setDownTag t .powerOn) := setDownTag_lawsKept t fun _ => rfl

theorem responseArrives_lawsKept (t : DownTagId) (ok : Bool) (data : List Byte) (s : State) :
    LawsKept s (responseArrives t ok data s) := by
  have freed : LawsKept s (s.setDownTag t .powerOn) := freeTag_lawsKept t s
  unfold responseArrives
  split
  · exact lawsKept_of_units rfl rfl
  · split
    · refine (moves_run .refl).lawsKept ?_
      unfold takeResponse
      split
      · exact (moves_complete _ _ _ .refl).lawsKept freed
      · exact (moves_complete _ _ _ .refl).lawsKept (freed.trans (lawsKept_of_units rfl rfl))
    · unfold lateResponse
      split
      · exact (moves_offer _ .refl).lawsKept freed
      · exact lawsKept_of_moves (moves_offer _ .refl)

/-- An IN_FLIGHT tag whose response timer expires is QUARANTINED for 8 × t (R164). -/
theorem responseExpired_lawsKept (t : DownTagId) (s : State) : LawsKept s (responseExpired t s) := by
  unfold responseExpired
  split
  · next q inFlight request =>
    have posted : LawsKept s (offer (downstreamRecord .timeout q.key) s) := lawsKept_of_moves (moves_offer _ .refl)
    have quarantined : (s.downTag t).quarantine.consistent := ⟨Option.isSome_iff_exists.mpr ⟨q, request⟩, rfl, rfl⟩
    exact (moves_run (moves_complete _ _ _ .refl)).lawsKept (posted.trans (setDownTag_lawsKept t fun _ => quarantined))
  · exact lawsKept_of_units rfl rfl

/-! ## The other rows -/

theorem admitHead_units (i : SlotId) (s : State) : (admitHead i s).ma = s.ma ∧ (admitHead i s).su = s.su := by
  unfold admitHead
  generalize (s.slot i).parts = ps
  exact List.foldlRecOn ps _ (motive := fun t : State => t.ma = s.ma ∧ t.su = s.su) ⟨rfl, rfl⟩ fun t kept p _ => kept

theorem examineAdmission_lawsKept (s : State) : LawsKept s (examineAdmission s) := by
  unfold examineAdmission
  split
  · exact lawsKept_of_units rfl rfl
  · next i rest _ =>
    split
    · exact lawsKept_of_moves (moves_refuse _ _ _ _ (moves_withObt _ (by rfl) .refl))
    · split
      · obtain ⟨ma, su⟩ := admitHead_units i (s.withObt { s.obt with admission := rest })
        exact (moves_run .refl).lawsKept (lawsKept_of_units ma su)
      · exact lawsKept_of_units rfl rfl

theorem sendResponse_lawsKept (s : State) : LawsKept s (sendResponse s) := by
  unfold sendResponse
  split <;> exact lawsKept_of_units rfl rfl

theorem assertFrst_lawsKept (s : State) : LawsKept s (assertFrst s) := by
  have pinned : LawsKept s (s.withPins { s.pins with frst := true }) := lawsKept_of_units rfl rfl
  exact (moves_run (moves_abandonAll .refl)).lawsKept pinned

/-- Every command keeps the three laws. -/
theorem exec_lawsKept {c : Instr} {s t : State} (e : exec c s = .next t) : LawsKept s t := by
  cases hb : busByte c with
  | some v =>
    rw [exec_of_busByte hb] at e
    cases e
    exact takeByte_lawsKept v s
  | none =>
    cases c with
    | readRequest q t a n => cases e; exact lawsKept_of_moves (moves_arrive _ .refl)
    | writeRequest q t a d m => cases e; exact lawsKept_of_moves (moves_arrive _ .refl)
    | responseSent => cases e; exact sendResponse_lawsKept s
    | admissionExamination => cases e; exact examineAdmission_lawsKept s
    | bufferWaitExamination => cases e; exact lawsKept_of_moves (moves_run (moves_examineBuffers _ .refl))
    | allocationExamination => cases e; exact lawsKept_of_moves (moves_examineAllocation _ .refl)
    | retryTimerExpiry l => cases e; exact lawsKept_of_moves (moves_retryExpired l .refl)
    | pacingTimerExpiry => cases e; exact lawsKept_of_moves (moves_pacingExpired s)
    | requestGrant => cases e; exact grantRequests_lawsKept 16 s
    | downstreamResponse t ok d => cases e; exact responseArrives_lawsKept t ok d s
    | responseTimerExpiry t => cases e; exact responseExpired_lawsKept t s
    | quarantineTimerExpiry t =>
      cases e
      split
      · exact freeTag_lawsKept t s
      · exact lawsKept_of_units rfl rfl
    | logHeadRead m => cases e; split <;> exact lawsKept_of_units rfl rfl
    | frstAsserted => exact Host.Outcome.next.inj e ▸ assertFrst_lawsKept s
    | frstReleased => cases e; exact lawsKept_of_units rfl rfl
    | porstAsserted => cases e; exact lawsKept_of_powerOn s rfl rfl
    | porstReleased a =>
      cases e
      split
      · exact lawsKept_of_powerOn s rfl rfl
      · exact lawsKept_of_units rfl rfl
    | startCondition => cases e; split <;> exact lawsKept_of_units rfl rfl
    | stopCondition => cases e; split <;> exact lawsKept_of_units rfl rfl
    | _ => cases hb

/-- The empty queue idles, and the command at the front keeps the laws. -/
theorem step_lawsKept {s t : State} (e : step s = .next t) : LawsKept s t := by
  unfold step at e
  split at e
  · cases e; exact lawsKept_of_units rfl rfl
  · next c rest _ =>
    have taken : LawsKept s (s.withPending rest) := lawsKept_of_units rfl rfl
    exact taken.trans (exec_lawsKept e)

/-- Settles O55: every step keeps each of the three laws. -/
theorem everyStepKeepsTagsJobsAndRanges : Obligations.EveryStepKeepsTagsJobsAndRanges :=
  ⟨fun _ _ tags e => (step_lawsKept e).tags tags,
    fun _ _ jobs ranges e => ⟨(step_lawsKept e).jobs jobs, (step_lawsKept e).ranges ranges⟩⟩

end Sys2Proof.Machine
end

section
/-! PROOFS. The grant of a request (R159, R162, R163): the FREE tag and the class head it takes, and that sixteen rounds of the
examination are as good as any more. -/

namespace Sys2Proof.Machine

/-! ## The tag and the request of a grant -/

theorem freeTag_some {s : State} {t : DownTagId} (free : (s.downTag t).state = .free)
    (lowest : ∀ u, u < t → (s.downTag u).state ≠ .free) : s.ma.freeTag = some t :=
  find_finRange (beq_iff_eq.mpr free) fun u hu => beq_eq_false_iff_ne.mpr (lowest u hu)

theorem freeTag_none {s : State} (h : ∀ t, (s.downTag t).state ≠ .free) : s.ma.freeTag = none :=
  List.find?_eq_none.mpr fun t _ => mt beq_iff_eq.mp (h t)

/-- The head of the TAG class comes first. -/
theorem MemoryArbiter.next_tag {m : MemoryArbiter} {q : Request} {rest : List Request} (tag : m.tagQueue = q :: rest) :
    m.next = some (q, { m with tagQueue := rest }) := by
  unfold MemoryArbiter.next
  rw [tag]

/-- The head of the SWEEP class comes when no WORK request waits, or when the share of WORK grants is used up. -/
theorem MemoryArbiter.next_sweep {m : MemoryArbiter} {q : Request} {rest : List Request} (tag : m.tagQueue = [])
    (sweep : m.sweepQueue = q :: rest) (turn : m.workQueue = [] ∨ m.share ≤ m.shareCounter) :
    m.next = some (q, { m with sweepQueue := rest, shareCounter := 0 }) := by
  unfold MemoryArbiter.next
  rw [tag, sweep]
  cases work : m.workQueue with
  | nil => rfl
  | cons w ws => exact if_pos (turn.resolve_left (by simp [work]))

/-- The head of the WORK class comes otherwise, and counts against the share while a SWEEP request waits. -/
theorem MemoryArbiter.next_work {m : MemoryArbiter} {q : Request} {rest : List Request} (tag : m.tagQueue = [])
    (work : m.workQueue = q :: rest) (turn : m.sweepQueue = [] ∨ m.shareCounter < m.share) :
    m.next = some (q, { m with
      workQueue := rest, shareCounter := if m.sweepQueue = [] then m.shareCounter else m.shareCounter + 1 }) := by
  unfold MemoryArbiter.next
  rw [tag, work]
  cases sweep : m.sweepQueue with
  | nil => rfl
  | cons w ws => exact if_neg (Nat.not_le_of_lt (turn.resolve_left (by simp [sweep])))

theorem ReqKind.isWrite_eq (k : ReqKind) : k.isWrite = (k == .dataWrite || k == .lineWriteback || k == .tagWrite) := by
  cases k <;> rfl

/-! ## The rounds of the examination -/

/-- The number of FREE tags. -/
def MemoryArbiter.freeCount (m : MemoryArbiter) : Nat := m.tags.toList.countP (·.state == .free)

theorem MemoryArbiter.freeCount_le (m : MemoryArbiter) : m.freeCount ≤ 16 :=
  Nat.le_trans List.countP_le_length (by simp)

theorem MemoryArbiter.freeTag_of_freeCount {m : MemoryArbiter} (h : m.freeCount = 0) : m.freeTag = none :=
  List.find?_eq_none.mpr fun t _ => List.countP_eq_zero.mp h _ (List.getElem_mem (by simp))

/-- The tag `freeTag` names is FREE. -/
theorem MemoryArbiter.freeTag_free {m : MemoryArbiter} {t : DownTagId} (h : m.freeTag = some t) : (vget m.tags t).state = .free :=
  beq_iff_eq.mp (List.find?_some (p := fun t => (vget m.tags t).state == .free) h)

/-- A grant takes one of the FREE tags. -/
theorem grantTo_freeCount {s : State} {t : DownTagId} {q : Request} {m : MemoryArbiter} (free : (s.downTag t).state = .free)
    (chosen : s.ma.next = some (q, m)) : (grantTo t q m s).ma.freeCount = s.ma.freeCount - 1 := by
  obtain ⟨tags, -⟩ := MemoryArbiter.next_keeps chosen
  have bound : t.val < s.ma.tags.toList.length := by simp
  have was : (s.ma.tags.toList[t.val].state == .free) = true := beq_iff_eq.mpr free
  show (vset m.tags t (grantedTag m.timeout q)).toList.countP (·.state == .free) = s.ma.tags.toList.countP (·.state == .free) - 1
  rw [tags, vset, Vector.toList_set, List.countP_set bound, if_pos was]
  rfl

theorem grantRequests_granted {s : State} {t : DownTagId} {q : Request} {m : MemoryArbiter} (tag : s.ma.freeTag = some t)
    (chosen : s.ma.next = some (q, m)) (n : Nat) : grantRequests (n + 1) s = grantRequests n (grantTo t q m s) := by
  rw [grantRequests, tag]
  dsimp only
  rw [chosen]

theorem grantRequests_of_no_freeTag {s : State} (h : s.ma.freeTag = none) (n : Nat) : grantRequests n s = s := by
  cases n with
  | zero => rfl
  | succ n => rw [grantRequests, h]

/-- As many rounds as FREE tags are enough: each grant takes one. -/
theorem grantRequests_enough {n k : Nat} {s : State} (enough : s.ma.freeCount ≤ n) (more : n ≤ k) :
    grantRequests k s = grantRequests n s := by
  induction n generalizing k s with
  | zero =>
    have none : s.ma.freeTag = none := MemoryArbiter.freeTag_of_freeCount (Nat.le_zero.mp enough)
    rw [grantRequests_of_no_freeTag none, grantRequests_of_no_freeTag none]
  | succ n ih =>
    obtain ⟨k, rfl⟩ : ∃ j, k = j + 1 := ⟨k - 1, by omega⟩
    cases tag : s.ma.freeTag with
    | none => rw [grantRequests_of_no_freeTag tag, grantRequests_of_no_freeTag tag]
    | some t =>
      cases chosen : s.ma.next with
      | none => rw [grantRequests_of_next_none chosen, grantRequests_of_next_none chosen]
      | some qm =>
        obtain ⟨q, m⟩ := qm
        have fewer := grantTo_freeCount (MemoryArbiter.freeTag_free tag) chosen
        rw [grantRequests_granted tag chosen, grantRequests_granted tag chosen]
        exact ih (by omega) (by omega)

/-- One grant, and the examination goes on from there as if it began. -/
theorem exec_requestGrant_granted {s : State} {t : DownTagId} {q : Request} {m : MemoryArbiter} (tag : s.ma.freeTag = some t)
    (chosen : s.ma.next = some (q, m)) : exec .requestGrant s = exec .requestGrant (grantTo t q m s) := by
  have fewer := grantTo_freeCount (MemoryArbiter.freeTag_free tag) chosen
  have bound := s.ma.freeCount_le
  have rounds : grantRequests 16 (grantTo t q m s) = grantRequests 15 (grantTo t q m s) :=
    grantRequests_enough (by omega) (by omega)
  have granted : grantRequests 16 s = grantRequests 15 (grantTo t q m s) := grantRequests_granted tag chosen 15
  exact congrArg Host.Outcome.next (granted.trans rounds.symm)

/-- A grant, written out (R159, R163). -/
theorem grantTo_eq {s : State} {t : DownTagId} {q : Request} {m : MemoryArbiter} (chosen : s.ma.next = some (q, m)) :
    grantTo t q m s = { s with
      ma := { m with tags := vset s.ma.tags t ⟨.inFlight, some q, s.ma.timeout, some s.ma.timeout, none⟩ }
      out := { s.out with downstream := s.out.downstream ++
        [⟨t, q.kind == .dataWrite || q.kind == .lineWriteback || q.kind == .tagWrite, q.address, q.length, q.data,
          q.enables⟩] } } := by
  obtain ⟨tags, timeout, -⟩ := MemoryArbiter.next_keeps chosen
  unfold grantTo messageOf grantedTag
  rw [ReqKind.isWrite_eq, tags, timeout]
  rfl

/-- Settles O18: nothing without a tag or a request, and one grant by the class its request heads. -/
theorem grantTakesTheChosenRequest : Obligations.GrantTakesTheChosenRequest := by
  refine ⟨fun s nothing => congrArg Host.Outcome.next ?_, fun s t q m free lowest order => ?_⟩
  · obtain noTag | ⟨tag, work, sweep⟩ := nothing
    · exact grantRequests_of_no_freeTag (freeTag_none noTag) 16
    · exact grantRequests_of_next_none (MemoryArbiter.next_none tag work sweep) 16
  · have chosen : s.ma.next = some (q, m) := by
      obtain ⟨rest, tag, rfl⟩ | ⟨tag, ⟨rest, sweep, rfl⟩, turn⟩ | ⟨tag, ⟨rest, work, rfl⟩, turn⟩ := order
      · exact MemoryArbiter.next_tag tag
      · exact MemoryArbiter.next_sweep tag sweep turn
      · exact MemoryArbiter.next_work tag work turn
    have granted := exec_requestGrant_granted (freeTag_some free lowest) chosen
    refine ⟨grantTo t q m s, grantTo_eq chosen, granted, fun ⟨tag, work, sweep⟩ => granted.trans (congrArg Host.Outcome.next ?_)⟩
    exact grantRequests_of_next_none (MemoryArbiter.next_none tag work sweep) 16

end Sys2Proof.Machine
end

section
/-! PROOFS. Responses and expiries at a downstream tag (R163 to R165), and what a pass-through slot makes of its completion (R152,
R155). -/

namespace Sys2Proof.Machine

/-! ## A response at a tag (R163, R165) -/

section
variable {s : State} {t : DownTagId} {q : Request}

theorem exec_downstreamResponse_inFlight (ok : Bool) (data : List Byte) (porst : s.pins.porst = false)
    (inFlight : (s.downTag t).state = .inFlight) (request : (s.downTag t).request = some q) :
    exec (.downstreamResponse t ok data) s = .next (run (takeResponse t q ok data s)) := by
  have taken : responseArrives t ok data s = run (takeResponse t q ok data s) := by
    unfold responseArrives
    rw [if_neg (by simp [porst]), inFlight, request]
  exact congrArg Host.Outcome.next taken

/-- The data of an ERROR response is ignored. -/
theorem takeResponse_error (data : List Byte) :
    takeResponse t q false data s = complete q false [] (s.setDownTag t .powerOn) := rfl

theorem exec_downstreamResponse_late (ok : Bool) (data : List Byte) (porst : s.pins.porst = false)
    (late : (s.downTag t).state ≠ .inFlight) : exec (.downstreamResponse t ok data) s = .next (lateResponse t s) := by
  have taken : responseArrives t ok data s = lateResponse t s := by
    unfold responseArrives
    rw [if_neg (by simp [porst])]
    split
    · next inFlight _ => exact absurd inFlight late
    · rfl
  exact congrArg Host.Outcome.next taken

theorem lateResponse_quarantined (quarantined : (s.downTag t).state = .quarantined) (request : (s.downTag t).request = some q) :
    lateResponse t s = offer (downstreamRecord .lateResponse q.key) (s.setDownTag t .powerOn) := by
  unfold lateResponse
  rw [quarantined, request]

theorem lateResponse_free (free : (s.downTag t).state = .free) :
    lateResponse t s = offer (Record.plain .lateResponse .downstream) s := by
  unfold lateResponse
  rw [free]
  rfl

/-! ## Expiries (R164, R165) -/

theorem responseExpired_inFlight (inFlight : (s.downTag t).state = .inFlight) (request : (s.downTag t).request = some q) :
    responseExpired t s = run (complete q false []
      ((offer (downstreamRecord .timeout q.key) s).setDownTag t (s.downTag t).quarantine)) := by
  unfold responseExpired
  rw [inFlight, request]

theorem responseExpired_stopped (stopped : (s.downTag t).state ≠ .inFlight) : responseExpired t s = s := by
  unfold responseExpired
  split
  · next inFlight _ => exact absurd inFlight stopped
  · rfl
end

/-- What a completion sets off leaves every tag's state and timers as they are. -/
theorem run_complete_downTag (q : Request) (ok : Bool) (data : List Byte) (s : State) (d : DownTagId) :
    ((run (complete q ok data s)).downTag d).state = (s.downTag d).state ∧
      ((run (complete q ok data s)).downTag d).responseTimer = (s.downTag d).responseTimer ∧
      ((run (complete q ok data s)).downTag d).quarantineTimer = (s.downTag d).quarantineTimer := by
  obtain ⟨state, -, response, quarantine, -⟩ := (moves_run (moves_complete q ok data .refl)).downTag d
  exact ⟨state, response, quarantine⟩

/-- Settles O21: late responses by the tag's state, the two expiries, and the quarantined tag after all that the error completion sets
off. -/
theorem expiryQuarantinesAndLateResponsesAreDiscarded : Obligations.ExpiryQuarantinesAndLateResponsesAreDiscarded := by
  refine ⟨fun s t => ⟨fun ok data porst => ⟨fun q quarantined request => ?_, fun free => ?_⟩,
      fun quarantined => congrArg Host.Outcome.next (if_pos quarantined),
      fun other => congrArg Host.Outcome.next (if_neg other)⟩,
    fun s t => ⟨fun stopped => congrArg Host.Outcome.next (responseExpired_stopped stopped), fun q inFlight request => ?_⟩⟩
  · rw [exec_downstreamResponse_late ok data porst (by rw [quarantined]; decide), lateResponse_quarantined quarantined request]
    rfl
  · rw [exec_downstreamResponse_late ok data porst (by rw [free]; decide), lateResponse_free free]
    rfl
  · obtain ⟨state, response, quarantine⟩ := run_complete_downTag q false []
      ((offer (downstreamRecord .timeout q.key) s).setDownTag t (s.downTag t).quarantine) t
    rw [setDownTag_same] at state response quarantine
    exact ⟨_, congrArg Host.Outcome.next (responseExpired_inFlight inFlight request), rfl, state, response, quarantine⟩

end Sys2Proof.Machine
end

section
/-! PROOFS. The bytes a read and a line fill are handed (R99, R100, R152, R163, R165), and the end of a drain (R110, R134). -/

namespace Sys2Proof.Machine

/-! ## A pass-through request completes (R152, R155) -/

section
variable {s : State} {i : SlotId} {q : Request}

theorem passDone_passing (passing : (s.slot i).state = .passing) (ok : Bool) (data : List Byte) :
    passDone i ok data s =
      respond i (if ok then .okay else .memoryFault) false (passData (s.slot i) ok data) (postPass i ok s) := by
  unfold passDone
  rw [passing]

theorem passDone_abandoned (abandoned : (s.slot i).state = .abandoned) (ok : Bool) (data : List Byte) :
    passDone i ok data s = freeSlot i (postPass i ok s) := by
  unfold passDone
  rw [abandoned]

/-- The response a PASSING slot forms, written out; a failure is recorded without a region. -/
theorem run_complete_passing (issuer : q.issuer = .passThrough i) (passing : (s.slot i).state = .passing) (work : s.work = [])
    (ok : Bool) (data : List Byte) :
    run (complete q ok data s) = endReset { s with
      tu := {
        slots := vset s.tu.slots i { s.slot i with
          state := .responding
          response := some ⟨(s.slot i).requester, (s.slot i).tid, (s.slot i).kind, if ok then .okay else .memoryFault, false,
            passData (s.slot i) ok data⟩ }
        responses := s.tu.responses ++ [i] }
      el := if ok then s.el else s.el.offer (passRecord (passKind (s.slot i).kind) (s.slot i).who) } := by
  have handed : complete q ok data s = passDone i ok data s := by
    unfold complete
    rw [issuer]
  rw [handed, passDone_passing passing]
  cases ok <;> exact run_nil _ work

/-- The slot of an ABANDONED request that completes OK is freed. -/
theorem run_complete_abandoned (issuer : q.issuer = .passThrough i) (abandoned : (s.slot i).state = .abandoned) (work : s.work = [])
    (data : List Byte) :
    run (complete q true data s) = endReset { s with tu := { s.tu with slots := vset s.tu.slots i Slot.powerOn } } := by
  have handed : complete q true data s = passDone i true data s := by
    unfold complete
    rw [issuer]
  rw [handed, passDone_abandoned abandoned]
  exact run_nil _ work

theorem passData_read (read : (s.slot i).kind = .read) (ok : Bool) (data : List Byte) :
    passData (s.slot i) ok data = if ok then data else List.replicate (s.slot i).length 0 := by
  unfold passData
  rw [read]

theorem passData_write (write : (s.slot i).kind = .write) (ok : Bool) (data : List Byte) : passData (s.slot i) ok data = [] := by
  unfold passData
  rw [write]
end

/-! ## The bytes of a response -/

section
variable {s : State} {t : DownTagId} {q : Request}

/-- An OK response to a read hands the bytes it carries, with free ones for those it lacks. -/
theorem takeResponse_read (read : q.kind.isWrite = false) (data : List Byte) :
    takeResponse t q true data s = complete q true (data.take q.length ++ freeBytes (q.length - data.length) s)
      ((s.setDownTag t .powerOn).withFree (s.free + (q.length - data.length))) :=
  if_neg (by simp [read])

theorem freeBytes_length (n : Nat) (s : State) : (freeBytes n s).length = n := by
  rw [freeBytes, List.length_map, List.length_range]

theorem exec_downstreamResponse_take (data : List Byte) (porst : s.pins.porst = false) (inFlight : (s.downTag t).state = .inFlight)
    (request : (s.downTag t).request = some q) :
    exec (.downstreamResponse t true data) s = exec (.downstreamResponse t true (data.take q.length)) s := by
  rw [exec_downstreamResponse_inFlight true _ porst inFlight request, exec_downstreamResponse_inFlight true _ porst inFlight request,
    takeResponse_take]

/-- A pass-through read is answered with the bytes of its response. -/
theorem exec_passThroughRead {i : SlotId} (data : List Byte) (porst : s.pins.porst = false)
    (inFlight : (s.downTag t).state = .inFlight) (request : (s.downTag t).request = some q) (kind : q.kind = .dataRead)
    (issuer : q.issuer = .passThrough i) (work : s.work = []) (passing : (s.slot i).state = .passing)
    (read : (s.slot i).kind = .read) :
    exec (.downstreamResponse t true data) s = .next (endReset { s with
      ma := { s.ma with tags := vset s.ma.tags t DownTag.powerOn }
      tu := {
        slots := vset s.tu.slots i { s.slot i with
          state := .responding
          response := some ⟨(s.slot i).requester, (s.slot i).tid, .read, .okay, false,
            data.take q.length ++ freeBytes (q.length - data.length) s⟩ }
        responses := s.tu.responses ++ [i] }
      free := s.free + (q.length - data.length) }) := by
  obtain ⟨u, hu⟩ : ∃ u, u = (s.setDownTag t .powerOn).withFree (s.free + (q.length - data.length)) := ⟨_, rfl⟩
  have slot : u.slot i = s.slot i := by rw [hu]; rfl
  have ended := run_complete_passing issuer (by rw [slot]; exact passing) (by rw [hu]; exact work) true
    (data.take q.length ++ freeBytes (q.length - data.length) s)
  rw [slot, passData_read read, read, if_pos rfl, if_pos rfl, if_pos rfl] at ended
  rw [exec_downstreamResponse_inFlight true data porst inFlight request, takeResponse_read (by rw [kind]; rfl), ← hu, ended, hu]
  rfl
end

/-! ## A LINE_FILL completes (R99, R100) -/

section
variable {s : State} {t : DownTagId} {q : Request} {l : LineId} {r : RegionId} {line : Nat}

theorem complete_line (issuer : q.issuer = .line l) (ok : Bool) (data : List Byte) :
    complete q ok data s = lineDone l ok data s := by
  unfold complete
  rw [issuer]

theorem lineDone_filling (key : (s.line l).key = some (r, line)) (filling : (s.line l).state = .filling) (ok : Bool)
    (data : List Byte) : lineDone l ok data s = if ok then fillOk l r data s else fillFail l r line s := by
  unfold lineDone
  rw [key, filling]

theorem exec_lineFill_ok {data : List Byte} (porst : s.pins.porst = false) (inFlight : (s.downTag t).state = .inFlight)
    (request : (s.downTag t).request = some q) (kind : q.kind = .lineFill) (issuer : q.issuer = .line l)
    (key : (s.line l).key = some (r, line)) (filling : (s.line l).state = .filling) (length : data.length = q.length) :
    exec (.downstreamResponse t true data) s = .next (run (fillOk l r data (s.setDownTag t .powerOn))) := by
  rw [exec_downstreamResponse_inFlight true data porst inFlight request, takeResponse_exact t q data s (by rw [kind]; rfl) length,
    complete_line issuer, lineDone_filling (s := s.setDownTag t .powerOn) key filling, if_pos rfl]

theorem exec_lineFill_error {data : List Byte} (porst : s.pins.porst = false) (inFlight : (s.downTag t).state = .inFlight)
    (request : (s.downTag t).request = some q) (issuer : q.issuer = .line l) (key : (s.line l).key = some (r, line))
    (filling : (s.line l).state = .filling) :
    exec (.downstreamResponse t false data) s = .next (run (fillFail l r line (s.setDownTag t .powerOn))) := by
  rw [exec_downstreamResponse_inFlight false data porst inFlight request, takeResponse_error,
    complete_line issuer, lineDone_filling (s := s.setDownTag t .powerOn) key filling, if_neg nofun]

/-- A block's tag among the eight of its line's 64 bytes. -/
theorem decodeTags_positionOf (data : List Byte) (block : Nat) :
    vget (decodeTags data) (positionOf block) = decodeTag (slice (8 * (block % 8)) 8 data) := vget_ofFn ..

theorem blockOfPart_slot {i : SlotId} {k : Nat} {p : Part} (part : (s.slot i).parts[k]? = some p) :
    blockOfPart s (.slot i) k = p.block := by
  simp only [blockOfPart, part, Option.map_some, Option.getD_some]

theorem blockOfPart_sweep {j : Job} {rest : List Job} (jobs : s.su.jobs = j :: rest) (k : Nat) :
    blockOfPart s .sweep k = j.position := by
  simp only [blockOfPart, jobs, List.head?_cons, Option.map_some, Option.getD_some]
end

/-! ## The end of a drain (R110, R134) -/

section
variable {s : State} {r : RegionId}

theorem key_any_iff (x : Line) (r : RegionId) : x.key.any (·.1 == r) = true ↔ ∃ line, x.key = some (r, line) := by
  cases hk : x.key with
  | none => simp
  | some k =>
    rw [Option.any_some, beq_iff_eq]
    exact ⟨fun e => ⟨k.2, by rw [← e]⟩, fun ⟨line, e⟩ => by rw [Option.some.inj e]⟩

theorem lines_any_iff (s : State) (p : Line → Bool) : s.tc.lines.toList.any p = true ↔ ∃ m, p (s.line m) = true := by
  rw [List.any_eq_true]
  constructor
  · rintro ⟨x, hx, h⟩
    obtain ⟨k, hk, rfl⟩ := Vector.mem_iff_getElem.mp (Vector.mem_toList_iff.mp hx)
    exact ⟨⟨k, hk⟩, h⟩
  · rintro ⟨m, h⟩
    exact ⟨s.line m, Vector.mem_toList_iff.mpr (Vector.getElem_mem m.isLt), h⟩

theorem filling_iff (s : State) (r : RegionId) :
    s.tc.filling r = true ↔ ∃ m line, (s.line m).state = .filling ∧ (s.line m).key = some (r, line) := by
  rw [TagCache.filling, lines_any_iff]
  simp only [Bool.and_eq_true, beq_iff_eq, key_any_iff, exists_and_left]

theorem mem_cleanLines_iff (s : State) (r : RegionId) (m : LineId) :
    m ∈ s.tc.cleanLines r ↔ (s.line m).state = .clean ∧ ∃ line, (s.line m).key = some (r, line) := by
  rw [TagCache.cleanLines, List.mem_filter, Bool.and_eq_true, beq_iff_eq, key_any_iff]
  exact and_iff_right (List.mem_finRange m)

/-- Lines invalidated together: each is INVALID, and none of them is ranked. -/
theorem foldl_invalidateLine (ls : List LineId) (s : State) :
    ls.foldl (fun s l => invalidateLine l s) s = { s with tc := { s.tc with
      lines := Vector.ofFn fun m => if m ∈ ls then Line.powerOn else s.line m
      lru := s.tc.lru.filter fun m => m ∉ ls } } := by
  induction ls generalizing s with
  | nil =>
    have lines : (Vector.ofFn fun m => if m ∈ ([] : List LineId) then Line.powerOn else s.line m) = s.tc.lines :=
      vector_ext_vget fun m => (vget_ofFn _ m).trans (if_neg List.not_mem_nil)
    have lru : (s.tc.lru.filter fun m => m ∉ ([] : List LineId)) = s.tc.lru :=
      List.filter_eq_self.mpr fun m _ => decide_eq_true List.not_mem_nil
    rw [lines, lru]
    rfl
  | cons l ls ih =>
    have lines : (Vector.ofFn fun m => if m ∈ ls then Line.powerOn else (invalidateLine l s).line m) =
        Vector.ofFn fun m => if m ∈ l :: ls then Line.powerOn else s.line m := by
      refine congrArg Vector.ofFn (funext fun m => ?_)
      have read : (invalidateLine l s).line m = if l = m then Line.powerOn else s.line m := vget_vset ..
      rw [read]
      by_cases first : l = m <;> by_cases later : m ∈ ls <;> simp [first, later, eq_comm]
    have lru : ((invalidateLine l s).tc.lru.filter fun m => m ∉ ls) = s.tc.lru.filter fun m => m ∉ l :: ls := by
      rw [invalidateLine, withTc_tc, List.filter_filter]
      refine List.filter_congr fun m _ => ?_
      rw [Bool.eq_iff_iff]
      simp [and_comm]
    rw [List.foldl_cons, ih, lines, lru]
    rfl

theorem tryEndDrain_waits (h : (s.region r).state ≠ .draining ∨ (s.region r).drainFlushed = false ∨
    ∃ m line, (s.line m).state = .filling ∧ (s.line m).key = some (r, line)) : tryEndDrain r s = s := by
  refine if_neg ?_
  rintro ⟨draining, flushed, none⟩
  obtain other | waits | filling := h
  · exact other draining
  · exact Bool.false_ne_true (waits.symm.trans flushed)
  · rw [(filling_iff s r).mpr filling] at none
    cases none

/-- The region's part of a drain's end, beside the Tag Cache's. -/
theorem withTc_endDrain (s : State) (r : RegionId) (tc : TagCache) :
    (s.withTc tc).updRegion r Region.endDrain = { s with
      tc := tc
      ru := { s.ru with regions := vset s.ru.regions r { s.region r with
        state := .configured, drainPhase := none, drainFlushed := false } } } := rfl

theorem tryEndDrain_ends (draining : (s.region r).state = .draining) (flushed : (s.region r).drainFlushed = true)
    (filled : ∀ m line, (s.line m).key = some (r, line) → (s.line m).state ≠ .filling) {gone : LineId → Bool}
    (hgone : ∀ m, gone m = true ↔ (s.line m).state = .clean ∧ ∃ line, (s.line m).key = some (r, line)) :
    tryEndDrain r s = reportDrain r (s.region r).drainDiscards { s with
      tc := { s.tc with
        lines := Vector.ofFn fun m => if gone m then Line.powerOn else s.line m
        lru := s.tc.lru.filter fun m => !gone m }
      ru := { s.ru with regions := vset s.ru.regions r { s.region r with
        state := .configured, drainPhase := none, drainFlushed := false } } } := by
  have settled : s.tc.filling r = false := by
    refine Bool.eq_false_iff.mpr fun filling => ?_
    obtain ⟨m, line, state, key⟩ := (filling_iff s r).mp filling
    exact filled m line key state
  have clean (m : LineId) : m ∈ s.tc.cleanLines r ↔ gone m = true := (mem_cleanLines_iff s r m).trans (hgone m).symm
  have lines : (Vector.ofFn fun m => if m ∈ s.tc.cleanLines r then Line.powerOn else s.line m) =
      Vector.ofFn fun m => if gone m then Line.powerOn else s.line m := by simp only [clean]
  have lru : (s.tc.lru.filter fun m => m ∉ s.tc.cleanLines r) = s.tc.lru.filter fun m => !gone m :=
    List.filter_congr fun m _ => by simp only [clean, Bool.not_eq_true, Bool.decide_eq_false]
  rw [tryEndDrain, if_pos ⟨draining, flushed, by rw [settled]; rfl⟩, endDrain, foldl_invalidateLine, lines, lru]
  exact congrArg (reportDrain r (s.region r).drainDiscards) (withTc_endDrain s r _)
end

/-- Settles O60: the bytes of a response, the fill's two results, and the end of a drain. -/
theorem readIsHandedTheBytesOfItsResponse : Obligations.ReadIsHandedTheBytesOfItsResponse := by
  refine ⟨fun s t q data porst inFlight request kinds =>
      ⟨exec_downstreamResponse_take data porst inFlight request, fun i kind issuer work passing read =>
        ⟨freeBytes (q.length - data.length) s, freeBytes_length .., ?_⟩⟩,
    fun s u t q data l r line x porst inFlight request kind issuer hx key filling hu => ⟨fun length => ?_, ?_⟩,
    fun r y => ⟨tryEndDrain_waits, fun draining flushed filled gone hgone => tryEndDrain_ends draining flushed filled hgone⟩⟩
  · rw [freeBytes_length]
    exact exec_passThroughRead data porst inFlight request kind issuer work passing read
  · subst hx hu
    have handed {j : Nat} {w : OpId × Nat} (waits : (s.line l).waiters[j]? = some w) :
        ((s.line l).waiters.map fun w =>
          Task.handTag w.1 w.2 (vget (decodeTags data) (positionOf (blockOfPart s w.1 w.2))))[j]? =
            some (.handTag w.1 w.2 (decodeTag (slice (8 * (blockOfPart s w.1 w.2 % 8)) 8 data))) := by
      rw [List.getElem?_map, waits, Option.map_some, decodeTags_positionOf]
    refine ⟨(s.line l).waiters.map fun w =>
      .handTag w.1 w.2 (vget (decodeTags data) (positionOf (blockOfPart s w.1 w.2))), ?_, List.length_map _,
      fun j i k p waits part => ?_, fun j k jb rest waits jobs => ?_⟩
    · exact exec_lineFill_ok porst inFlight request kind issuer key filling length
    · rw [handed waits, blockOfPart_slot part]
    · rw [handed waits, blockOfPart_sweep jobs]
  · subst hx hu
    exact exec_lineFill_error porst inFlight request issuer key filling

end Sys2Proof.Machine
end

section
/-! PROOFS. A response that completes a write (R86 to R89, R93, R101, R102): the data writes of a part, its tag update, the completion of
its tag write, and the end of the write. -/

namespace Sys2Proof.Machine

/-! ## The tag of a response (R163) -/

/-- What a completion sets off leaves a FREE tag as it is. -/
theorem Moves.downTag_powerOn {s t : State} (m : Moves s t) {d : DownTagId} (free : s.downTag d = .powerOn) :
    t.downTag d = .powerOn := by
  obtain ⟨state, timeout, response, quarantine, request⟩ := m.downTag d
  rw [free] at state timeout response quarantine request
  have noRequest : (t.downTag d).request = none := Option.isNone_iff_eq_none.mp (by simpa [DownTag.powerOn] using request)
  calc t.downTag d = ⟨(t.downTag d).state, (t.downTag d).request, (t.downTag d).timeout, (t.downTag d).responseTimer,
        (t.downTag d).quarantineTimer⟩ := rfl
    _ = .powerOn := by rw [state, timeout, response, quarantine, noRequest]; rfl

/-- A response taken is a cascade from the state with its tag FREE, and the free values it took counted. -/
theorem takeResponse_moves (t : DownTagId) (q : Request) (ok : Bool) (data : List Byte) (s : State) :
    ∃ n, Moves ((s.setDownTag t .powerOn).withFree n) (run (takeResponse t q ok data s)) := by
  unfold takeResponse
  split
  · exact ⟨s.free, moves_run (moves_complete _ _ _ .refl)⟩
  · exact ⟨_, moves_run (moves_complete _ _ _ .refl)⟩

/-- The tag of a response is FREE, no other tag changes its state or timers, and nothing is sent. -/
theorem takeResponse_keeps (t : DownTagId) (q : Request) (ok : Bool) (data : List Byte) (s : State) {u : State}
    (hu : u = run (takeResponse t q ok data s)) :
    u.downTag t = .powerOn ∧
      (∀ d, d ≠ t → (u.downTag d).state = (s.downTag d).state ∧ (u.downTag d).responseTimer = (s.downTag d).responseTimer ∧
        (u.downTag d).quarantineTimer = (s.downTag d).quarantineTimer) ∧
      u.out = s.out ∧ u.pins = s.pins ∧ u.ma.timeout = s.ma.timeout ∧ u.ma.share = s.ma.share ∧
      u.ma.shareCounter = s.ma.shareCounter := by
  obtain ⟨n, m⟩ := takeResponse_moves t q ok data s
  rw [← hu] at m
  refine ⟨m.downTag_powerOn (setDownTag_same ..), fun d other => ?_, m.out, m.pins, m.arbiter⟩
  obtain ⟨state, -, response, quarantine, -⟩ := m.downTag d
  have same : ((s.setDownTag t .powerOn).withFree n).downTag d = s.downTag d :=
    (setDownTag_downTag ..).trans (if_neg other.symm)
  rw [same] at state response quarantine
  exact ⟨state, response, quarantine⟩

/-! ## A pass-through request answered (R152, R155) -/

section
variable {s : State} {t : DownTagId} {q : Request} {i : SlotId} {ok : Bool} {data bytes : List Byte}
  (porst : s.pins.porst = false) (inFlight : (s.downTag t).state = .inFlight) (request : (s.downTag t).request = some q)
  (issuer : q.issuer = .passThrough i) (work : s.work = [])
  (handed : takeResponse t q ok data s = complete q ok bytes (s.setDownTag t .powerOn))
include porst inFlight request issuer work handed

theorem exec_passThrough_answered (passing : (s.slot i).state = .passing) :
    exec (.downstreamResponse t ok data) s = .next (endReset { s with
      ma := { s.ma with tags := vset s.ma.tags t DownTag.powerOn }
      tu := {
        slots := vset s.tu.slots i { s.slot i with
          state := .responding
          response := some ⟨(s.slot i).requester, (s.slot i).tid, (s.slot i).kind, if ok then .okay else .memoryFault, false,
            passData (s.slot i) ok bytes⟩ }
        responses := s.tu.responses ++ [i] }
      el := if ok then s.el else s.el.offer (passRecord (passKind (s.slot i).kind) (s.slot i).who) }) := by
  rw [exec_downstreamResponse_inFlight ok data porst inFlight request, handed,
    run_complete_passing (s := s.setDownTag t .powerOn) issuer passing work]
  rfl

theorem exec_passThrough_freed (abandoned : (s.slot i).state = .abandoned) (done : ok = true) :
    exec (.downstreamResponse t ok data) s = .next (endReset { s with
      ma := { s.ma with tags := vset s.ma.tags t DownTag.powerOn }
      tu := { s.tu with slots := vset s.tu.slots i Slot.powerOn } }) := by
  subst done
  rw [exec_downstreamResponse_inFlight true data porst inFlight request, handed,
    run_complete_abandoned (s := s.setDownTag t .powerOn) issuer abandoned work]
  rfl
end

/-- A response to a write hands no bytes. -/
theorem takeResponse_write {q : Request} (t : DownTagId) (ok : Bool) (data : List Byte) (s : State) (write : q.kind.isWrite = true) :
    takeResponse t q ok data s = complete q ok [] (s.setDownTag t .powerOn) :=
  if_pos (by rw [write, Bool.or_true])

/-! ## The end of a write (R89, R93) -/

section
variable {s : State} {i : SlotId}

theorem endWriteIfDone_waits (h : ∃ p ∈ (s.slot i).parts, p.phase ≠ .done) : endWriteIfDone i s = s := by
  refine if_neg fun all => ?_
  obtain ⟨p, hp, other⟩ := h
  exact other (beq_iff_eq.mp (List.all_eq_true.mp all p hp))

theorem endWriteIfDone_ends (h : ∀ p ∈ (s.slot i).parts, p.phase = .done) : endWriteIfDone i s = endWrite i s :=
  if_pos (List.all_eq_true.mpr fun p hp => beq_iff_eq.mpr (h p hp))

theorem endOp_abandoned (abandoned : (s.slot i).abandoned = true) (st : Status) (po : Bool) (data : List Byte) :
    endOp i st po data s = freeSlot i (releaseOp (.slot i) s) := if_pos abandoned

theorem endOp_answers (here : (s.slot i).abandoned = false) (st : Status) (po : Bool) (data : List Byte) :
    endOp i st po data s = respond i st po data (releaseOp (.slot i) s) := if_neg (by simp [here])
end

/-! ## A DATA_WRITE of a write part completes (R86, R87) -/

theorem withPart_slot (s : State) (i : SlotId) (k : Nat) (x : Part) : (s.withPart i k x).slot i = { s.slot i with parts := (s.slot i).parts.set k x } :=
  vget_vset_same ..

section
variable {s : State} {i : SlotId} {k : Nat} {p : Part} (part : (s.slot i).parts[k]? = some p)
include part

/-- A write with a part not DONE goes on. -/
theorem endWriteIfDone_withPart {x : Part} (other : x.phase ≠ .done) : endWriteIfDone i (s.withPart i k x) = s.withPart i k x := by
  obtain ⟨hk, -⟩ := List.getElem?_eq_some_iff.mp part
  refine endWriteIfDone_waits ⟨x, ?_, other⟩
  rw [withPart_slot]
  exact List.mem_set hk x

theorem writeOk_more (more : p.writesOut ≠ 1) :
    writeOk i k p s = s.withPart i k { p with writesOut := p.writesOut - 1 } :=
  (if_neg more).trans (updPart_eq part _)

theorem writeOk_failed (last : p.writesOut = 1) (failed : p.outcome = .memoryFault) :
    writeOk i k p s = s.withPart i k { p with phase := .done, newTag := none, writesOut := 0 } :=
  (if_pos last).trans ((if_pos failed).trans (updPart_eq part _))

theorem writeOk_last {r : RegionId} {tag : Tag} (region : (s.slot i).region = some r) (last : p.writesOut = 1)
    (sofar : p.outcome ≠ .memoryFault) (new : p.newTag = some tag) :
    writeOk i k p s = tagUpdate (.slot i) k r p.block tag (s.withPart i k { p with
      phase := if (s.region r).tagPolicy = .writeThrough then .tagging else .done, writesOut := 0 }) := by
  rw [writeOk, if_pos last, if_neg sofar, updatePartTag, updPart_eq part, slotRegion_eq region, Slot.regionId_eq region, new]
  rfl

/-- A failed data write: the part is at fault, and MEMORY_WRITE is posted once for it. -/
theorem writeFault_eq {r : RegionId} (region : (s.slot i).region = some r) (writing : p.phase = .writing) :
    (postPartFault .memoryWrite i k p s).updPart i k Part.writeFault = { s.withPart i k { p with
        outcome := .memoryFault, faultPosted := true, writesOut := p.writesOut - 1
        phase := if p.writesOut = 1 then .done else .writing, newTag := if p.writesOut = 1 then none else p.newTag } with
      el := if p.faultPosted then s.el else s.el.offer { Record.plain .memoryWrite .transaction with
        region := some r, block := some p.block, who := some ((s.slot i).requester, (s.slot i).tid) } } := by
  cases posted : p.faultPosted with
  | true =>
    have already : postPartFault .memoryWrite i k p s = s := if_pos posted
    rw [already, updPart_eq part, Part.writeFault, writing, posted]
    rfl
  | false =>
    have once : postPartFault .memoryWrite i k p s = offer (partRecord .memoryWrite r p.block (s.slot i).who)
        (s.updPart i k fun p => { p with faultPosted := true }) := by
      rw [← Slot.regionId_eq region]
      exact if_neg (by simp [posted])
    have both : (s.updPart i k fun p => { p with faultPosted := true }).updPart i k Part.writeFault =
        s.withPart i k { p with
          outcome := .memoryFault, faultPosted := true, writesOut := p.writesOut - 1
          phase := if p.writesOut = 1 then .done else .writing, newTag := if p.writesOut = 1 then none else p.newTag } := by
      rw [updPart_updPart, updPart_eq part, ← writing]
      rfl
    rw [once]
    exact congrArg (offer (partRecord .memoryWrite r p.block (s.slot i).who)) both

/-- The response to a DATA_WRITE of a write part is handed to the part (R163). -/
theorem exec_dataWrite {t : DownTagId} {q : Request} {n : Nat} (ok : Bool) (data : List Byte) (porst : s.pins.porst = false)
    (inFlight : (s.downTag t).state = .inFlight) (request : (s.downTag t).request = some q) (issuer : q.issuer = .part i k n)
    (write : (s.slot i).kind = .write) (kind : q.kind = .dataWrite) :
    exec (.downstreamResponse t ok data) s = .next (run (writeDone i k p ok (s.setDownTag t .powerOn))) := by
  have handed : complete q ok [] (s.setDownTag t .powerOn) = writeDone i k p ok (s.setDownTag t .powerOn) := by
    have here : (s.setDownTag t .powerOn).part i k = some p := part
    have same : ((s.setDownTag t .powerOn).slot i).kind = .write := write
    rw [complete, issuer, kind]
    dsimp only
    rw [partDone, here, same]
  rw [exec_writeResponse ok data porst inFlight request (by rw [kind]; rfl), handed]
end

/-! ## The tag update (R101, R102) -/

section
variable {s : State} {l : LineId} {r : RegionId} {block : Nat} {pos : Fin 8} {tag : Tag}

theorem positionOf_eq (h : pos.val = block % 8) : positionOf block = pos := Fin.ext h.symm

/-- The line a tag update finds takes the tag, and the policy's part follows. -/
theorem tagUpdate_found (key : (s.line l).key = some (r, block / 8)) (lowest : ∀ m, m < l → (s.line m).key ≠ some (r, block / 8))
    (hpos : pos.val = block % 8) (op : OpId) (k : Nat) :
    tagUpdate op k r block tag s =
      highWater (demandWriteback l (followUpdate op k r block l (s.updLine l (Line.update pos tag)))) := by
  unfold tagUpdate
  rw [show s.tc.find r (lineOfBlock block) = some l from find_some key lowest, positionOf_eq hpos]
  rfl

theorem followUpdate_writeBack (policy : (s.region r).tagPolicy = .writeBack) (op : OpId) (k : Nat) :
    followUpdate op k r block l s = s := by
  unfold followUpdate
  rw [policy]

theorem followUpdate_writeThrough (policy : (s.region r).tagPolicy = .writeThrough) (hpos : pos.val = block % 8) (op : OpId)
    (k : Nat) : followUpdate op k r block l s = throughWrite l ⟨pos, op, k⟩ s := by
  unfold followUpdate
  rw [policy, positionOf_eq hpos]

/-- A tag update neither begins nor ends a write-back. -/
theorem Line.update_cleaning_iff (x : Line) : (x.update pos tag).state = .cleaning ↔ x.state = .cleaning := by
  show (if x.state = .clean then LineState.dirty else x.state) = .cleaning ↔ x.state = .cleaning
  split
  · next clean => rw [clean]; exact ⟨nofun, nofun⟩
  · rfl

/-- While the line is CLEANING its TAG_WRITE is deferred. -/
theorem throughWrite_cleaning (d : Deferred) (f : Line → Line) (cleaning : (f (s.line l)).state = .cleaning) :
    throughWrite l d (s.updLine l f) =
      s.updLine l fun x => { f x with through := (f x).through + 1, deferred := (f x).deferred ++ [d] } := by
  rw [throughWrite, updLine_line_same, if_pos cleaning, updLine_updLine]
  rfl

/-- Otherwise its TAG_WRITE joins the TAG class. -/
theorem throughWrite_issued {line : Nat} (d : Deferred) (f : Line → Line) (other : (f (s.line l)).state ≠ .cleaning)
    (key : (f (s.line l)).key = some (r, line)) :
    throughWrite l d (s.updLine l f) = appendRequest (tagWriteRequest (s.updLine l f) l r line d.position d.maker d.part)
      (s.updLine l fun x => { f x with through := (f x).through + 1 }) := by
  have counted : (s.updLine l f).updLine l (fun x => { x with through := x.through + 1 }) =
      s.updLine l fun x => { f x with through := (f x).through + 1 } := updLine_updLine ..
  have kept : ((s.updLine l fun x => { f x with through := (f x).through + 1 }).line l).key = some (r, line) := by
    rw [updLine_line_same]
    exact key
  have request : tagWriteRequest (s.updLine l fun x => { f x with through := (f x).through + 1 }) l r line d.position d.maker d.part =
      tagWriteRequest (s.updLine l f) l r line d.position d.maker d.part := by
    simp only [tagWriteRequest, updLine_line_same]
    rfl
  rw [throughWrite, updLine_line_same, if_neg other, counted, issueTagWrite, kept, ← request]

/-- The TAG_WRITE of a block's tag just updated: its address, its 8 bytes and its key are the block's (R4, R102). -/
theorem tagWriteRequest_updated (hpos : pos.val = block % 8) (op : OpId) (k : Nat) :
    tagWriteRequest (s.updLine l (Line.update pos tag)) l r (block / 8) pos op k =
      { kind := .tagWrite, cls := .tag, address := (s.region r).tagBase + 8 * block, length := 8
        data := encodeTag tag, enables := List.replicate 8 true, issuer := .tagWrite (some l) op k
        key := ⟨some r, some block, none, some (r, block / 8)⟩, inReset := false } := by
  have at_block : 8 * (block / 8) + pos.val = block := by rw [hpos]; exact Nat.div_add_mod ..
  have updated : vget ((s.line l).update pos tag).tags pos = tag := vget_vset_same ..
  rw [tagWriteRequest, updLine_line_same, updated, at_block, writeRequestOf, encodeTag_length]
  rfl
end

/-! ## A TAG_WRITE completes (R88, R102) -/

section
variable {s : State} {l : LineId} {i : SlotId} {k : Nat} {p : Part}

@[simp] theorem demandWriteback_tu : (demandWriteback l s).tu = s.tu := by
  unfold demandWriteback
  split
  · exact issueWriteback_tu l s
  · rfl

theorem dirtied_slot (l : LineId) (s : State) (i : SlotId) : (highWater (demandWriteback l s)).slot i = s.slot i := by
  rw [State.slot, highWater_tu, demandWriteback_tu, State.slot]

/-- The response to a tag write of an upstream write: its line takes it, and then its part. -/
theorem exec_tagWrite {t : DownTagId} {q : Request} (ok : Bool) (data : List Byte) (porst : s.pins.porst = false)
    (inFlight : (s.downTag t).state = .inFlight) (request : (s.downTag t).request = some q)
    (issuer : q.issuer = .tagWrite (some l) (.slot i) k) (kind : q.kind = .tagWrite) :
    exec (.downstreamResponse t ok data) s =
      .next (run (partTagged i k ok (tagWriteDone (some l) q.key ok (s.setDownTag t .powerOn)))) := by
  rw [exec_writeResponse ok data porst inFlight request (by rw [kind]; rfl), complete, issuer]
  rfl

/-- The part of a tag write, once its line has left the slot as it was. -/
theorem partTagged_eq {v : State} (slot : v.slot i = s.slot i) (part : (s.slot i).parts[k]? = some p) (ok : Bool) :
    partTagged i k ok v =
      endWriteIfDone i (v.withPart i k { p with phase := .done, outcome := if ok then p.outcome else .memoryFault }) := by
  rw [partTagged, updPart_eq (by rw [slot]; exact part)]

theorem lineTagWriteFail_eq (l : LineId) (s : State) :
    lineTagWriteFail l s =
      highWater (demandWriteback l (s.updLine l fun x => { x with through := x.through - 1, throughFault := true })) := rfl
end

/-- Settles O19: the tag of the response, the pass-through slot, a part's data writes, the end of the write, the tag update by the
region's policy, and the completion of its tag write. -/
theorem responseCompletesTheRequest : Obligations.ResponseCompletesTheRequest := by
  refine ⟨fun s t q ok data porst inFlight request => ⟨?_, fun i issuer work => ⟨fun passing => ⟨?_, ?_, ?_⟩, ?_⟩⟩,
    fun s u t q ok data i k n p r porst inFlight request issuer write region part kind writing hu => ⟨?_, ?_⟩,
    fun s i => ⟨endWriteIfDone_waits, fun done => ⟨fun abandoned => ?_, fun here st answers => ?_⟩⟩,
    fun s op k r block tag l pos x key lowest hpos hx => ⟨fun policy => ?_, fun policy cleaning => ?_, fun policy other => ?_⟩,
    fun s u v t q ok data l i k p x porst inFlight request issuer kind part hx hu => ⟨?_, ?_, ?_⟩⟩
  · exact ⟨_, exec_downstreamResponse_inFlight ok data porst inFlight request, takeResponse_keeps t q ok data s rfl⟩
  · rintro rfl read kind length
    rw [exec_passThrough_answered porst inFlight request issuer work
      (takeResponse_exact t q data s (by rw [kind]; rfl) length) passing, passData_read read, read]
    rfl
  · rintro rfl write kind
    rw [exec_passThrough_answered porst inFlight request issuer work (takeResponse_write t _ data s (by rw [kind]; rfl)) passing,
      passData_write write, write]
    rfl
  · rintro rfl
    rw [exec_passThrough_answered porst inFlight request issuer work (takeResponse_error data) passing]
    cases kind : (s.slot i).kind with
    | read => rw [passData_read kind]; rfl
    | write => rw [passData_write kind]; rfl
  · intro abandoned done kind
    exact exec_passThrough_freed porst inFlight request issuer work (takeResponse_write t ok data s (by rw [kind]; rfl)) abandoned done
  · rintro rfl
    subst hu
    rw [exec_dataWrite part true data porst inFlight request issuer write kind, writeDone, if_pos rfl]
    refine ⟨fun more => ?_, fun last failed => ?_, fun tag last sofar new => ?_⟩
    · rw [writeOk_more (s := s.setDownTag t .powerOn) part more,
        endWriteIfDone_withPart (s := s.setDownTag t .powerOn) part (by rw [writing]; decide)]
      rfl
    · rw [writeOk_failed (s := s.setDownTag t .powerOn) part last failed]
      rfl
    · rw [writeOk_last (s := s.setDownTag t .powerOn) part region last sofar new]
      rfl
  · rintro rfl
    subst hu
    rw [exec_dataWrite part false data porst inFlight request issuer write kind, writeDone, if_neg nofun,
      writeFault_eq (s := s.setDownTag t .powerOn) part region writing]
    rfl
  · rw [endWriteIfDone_ends done]
    exact endOp_abandoned abandoned ..
  · rw [endWriteIfDone_ends done, endWrite, status_of_answers answers]
    exact endOp_answers here ..
  · subst hx
    rw [tagUpdate_found key lowest hpos, followUpdate_writeBack (by exact policy)]
    rfl
  · subst hx
    rw [tagUpdate_found key lowest hpos, followUpdate_writeThrough (by exact policy) hpos,
      throughWrite_cleaning _ _ ((Line.update_cleaning_iff _).mpr cleaning)]
    rfl
  · subst hx
    rw [tagUpdate_found key lowest hpos, followUpdate_writeThrough (by exact policy) hpos,
      throughWrite_issued _ _ (mt (Line.update_cleaning_iff _).mp other) key, tagWriteRequest_updated hpos]
    rfl
  · rintro rfl r line key dirty last noFault unlisted hv
    subst hx hu
    have done : tagWriteDone (some l) q.key true (s.setDownTag t .powerOn) = v :=
      (lineTagWriteOk_clean (s := s.setDownTag t .powerOn) key dirty last noFault unlisted).trans hv.symm
    have slot : v.slot i = s.slot i := by rw [hv]; rfl
    rw [exec_tagWrite true data porst inFlight request issuer kind, done, partTagged_eq slot part]
    rfl
  · rintro rfl other hv
    subst hx hu
    have done : tagWriteDone (some l) q.key true (s.setDownTag t .powerOn) = v :=
      (lineTagWriteOk_dirtied (s := s.setDownTag t .powerOn) other).trans hv.symm
    have slot : v.slot i = s.slot i := by rw [hv]; exact dirtied_slot ..
    rw [exec_tagWrite true data porst inFlight request issuer kind, done, partTagged_eq slot part]
    rfl
  · rintro rfl hv
    subst hx hu
    have done : tagWriteDone (some l) q.key false (s.setDownTag t .powerOn) = offer (tagWriteRecord q.key) v :=
      congrArg (offer (tagWriteRecord q.key)) ((lineTagWriteFail_eq l (s.setDownTag t .powerOn)).trans hv.symm)
    have slot : v.slot i = s.slot i := by rw [hv]; exact dirtied_slot ..
    have log : v.el = s.el := by rw [hv, highWater_el, demandWriteback_el]
    rw [exec_tagWrite false data porst inFlight request issuer kind, done,
      partTagged_eq (v := offer (tagWriteRecord q.key) v) slot part, ← log]
    rfl

end Sys2Proof.Machine
end

section
/-! PROOFS. The Event Log's operations (chapter 11): a record offered, by each of its four fates (R172 to R174), a write to the ACK
register (R175), and that both keep Law 11. -/

namespace Sys2Proof.Machine

/-! ## A record taken in (R172) -/

/-- The access kinds alone can be filtered, each by its own setting. -/
theorem EventLog.takes_eq_false_iff (e : EventLog) (k : RecordKind) :
    e.takes k = false ↔ (k = .denied ∧ e.logMask.denied = false) ∨ (k = .unavailable ∧ e.logMask.unavailable = false) ∨
      (k = .malformed ∧ e.logMask.malformed = false) := by
  cases k <;> simp [EventLog.takes]

theorem Record.matches_iff (a b : Record) :
    a.matches b = true ↔ a.kind = b.kind ∧ a.source = b.source ∧ a.region = b.region ∧ a.block = b.block := by
  simp [Record.matches, and_assoc]

theorem changeTail_append_singleton (f : Record → Record) (front : List Record) (t : Record) :
    changeTail f (front ++ [t]) = front ++ [f t] := by
  induction front with
  | nil => rfl
  | cons a front ih =>
    cases front with
    | nil => rfl
    | cons b front => exact congrArg (a :: ·) ih

/-! ## The four fates of an offered record (R172 to R174) -/

section
variable {e : EventLog} {r : Record}

theorem EventLog.offer_filtered (filtered : e.takes r.kind = false) : e.offer r = e := by
  rw [EventLog.offer, filtered]
  rfl

theorem EventLog.offer_merged {front : List Record} {t : Record} (taken : e.takes r.kind = true) (tail : e.log = front ++ [t])
    (same : r.matches t = true) :
    e.offer r = { e with log := front ++ [{ t with repeatCount := saturateRepeat t.repeatCount }] } := by
  have merges : e.log.getLast?.any r.matches = true := by rw [tail, List.getLast?_concat]; exact same
  rw [EventLog.offer, taken, merges, EventLog.merge, tail, changeTail_append_singleton]
  rfl

/-- With the tail another record, what is taken in is appended or dropped by the room in the log. -/
theorem EventLog.offer_unmatched (taken : e.takes r.kind = true) (other : ∀ t ∈ e.log.getLast?, ¬ r.matches t = true) :
    e.offer r = if e.log.length < Config.logCapacity then e.append r else e.drop := by
  have unmerged : e.log.getLast?.any r.matches = false := by
    cases tail : e.log.getLast? with
    | none => rfl
    | some t => exact Bool.eq_false_iff.mpr (other t tail)
  rw [EventLog.offer, taken, unmerged]
  rfl
end

/-- Settles O22: the filter by the kind's own setting, and the merge by the four fields that are compared. -/
theorem offerIsFilteredOrMerged : Obligations.OfferIsFilteredOrMerged := by
  refine ⟨fun e r => ⟨fun off => ?_, fun on => ?_⟩, fun e r t front taken tail kind source region block => ?_⟩
  · have filtered : e.takes r.kind = false := (e.takes_eq_false_iff r.kind).mpr off
    exact ⟨filtered, EventLog.offer_filtered filtered⟩
  · exact eq_true_of_ne_false (mt (e.takes_eq_false_iff r.kind).mp on)
  · exact EventLog.offer_merged taken tail ((r.matches_iff t).mpr ⟨kind, source, region, block⟩)

/-! ## The head acknowledged (R175) -/

theorem EventLog.acknowledge_nil {e : EventLog} (empty : e.log = []) : e.acknowledge = e := by
  rw [EventLog.acknowledge, empty]

theorem EventLog.acknowledge_cons {e : EventLog} {r : Record} {rest : List Record} (head : e.log = r :: rest) :
    e.acknowledge = EventLog.refresh { e with log := rest } := by
  rw [EventLog.acknowledge, head]

/-- Without its head a log is still numbered up to the counter. -/
theorem seqOk_tail {counter : BitVec 16} {r : Record} {rest : List Record} (h : seqOk counter (r :: rest)) :
    seqOk counter rest := by
  cases rest with
  | nil => trivial
  | cons q rest => exact h.2

/-- Removing the head keeps Law 11. -/
theorem EventLog.Law.acknowledge {e : EventLog} (h : e.Law) : e.acknowledge.Law := by
  cases held : e.log with
  | nil => rwa [EventLog.acknowledge_nil held]
  | cons r rest =>
    obtain ⟨room, numbered, counts⟩ := h
    rw [held] at room numbered counts
    rw [EventLog.acknowledge_cons held]
    exact ⟨Nat.le_of_succ_le room, seqOk_tail numbered, fun q member => counts q (List.mem_cons_of_mem r member)⟩

/-- Settles O23: the record appended or dropped by the room in the log, and Law 11 by what each operation keeps of it. -/
theorem unmatchedRecordIsAppendedOrDropped : Obligations.UnmatchedRecordIsAppendedOrDropped := by
  refine ⟨fun e r taken unmatched => ?_, fun e h => ⟨h.acknowledge, h.offer⟩⟩
  have other : ∀ t ∈ e.log.getLast?, ¬ r.matches t = true := fun t last => by
    obtain ⟨front, tail⟩ := List.getLast?_eq_some_iff.mp last
    exact mt (r.matches_iff t).mp (unmatched front t tail)
  rw [EventLog.offer_unmatched taken other]
  exact ⟨fun room => ⟨_, rfl, if_pos room⟩, fun full => if_neg (Nat.not_lt.mpr full)⟩

/-- Settles O25: the byte written at the ACK register's offset, by whether the log holds a record. -/
theorem ackRemovesTheHead : Obligations.AckRemovesTheHead := by
  intro s v writing
  have taken : exec (.ack v) s = .next (s.acked.withEl s.el.acknowledge) :=
    congrArg Host.Outcome.next (takeByte_write s 0xF0 v writing)
  rw [taken]
  refine ⟨fun empty => ?_, fun r rest head => ?_⟩
  · rw [EventLog.acknowledge_nil empty]
    rfl
  · rw [EventLog.acknowledge_cons head]
    rfl

end Sys2Proof.Machine
end

section
/-! PROOFS. The Event Log's commands: the alert condition with SET ALERT MASK (R176, R178), SET LOG MASK and CLEAR LOG OVERFLOW (R177,
R179). -/

namespace Sys2Proof.Machine

/-! ## The alert condition and SET ALERT MASK (R176, R178) -/

theorem EventLog.condition_iff (e : EventLog) :
    e.condition = true ↔
      (∃ r ∈ e.log, vget e.alertMask r.kind.number = true) ∨ (e.overflow = true ∧ vget e.alertMask 21 = true) := by
  rw [EventLog.condition, Bool.or_eq_true, Bool.and_eq_true, List.any_eq_true]

/-- A table read back from the list of its entries. -/
theorem ofFn_getD_ofFn {α : Type} {n : Nat} (v : Vector α n) (d : α) :
    (Vector.ofFn fun i => (List.ofFn (vget v)).getD i.val d) = v := by
  ext k hk
  rw [Vector.getElem_ofFn, List.getD_eq_getElem?_getD, List.getElem?_ofFn, dif_pos hk]
  rfl

section
variable {c : Command} {s : State}

theorem cmdSetAlertMask_listed {bs : Vector Bool 22} (settings : ∀ k : Fin 22, c.field k.val 1 = bit (vget bs k)) :
    cmdSetAlertMask c s = finishCommand .doneOk (s.withEl (EventLog.refresh { s.el with alertMask := bs })) := by
  have codes : c.codes settingCode 0 22 = some (List.ofFn (vget bs)) :=
    codes_some fun k => by rw [Nat.zero_add, settings k, settingCode_bit]
  rw [cmdSetAlertMask, codes]
  simp only [ofFn_getD_ofFn]

theorem cmdSetAlertMask_badParam {k : Fin 22} (bad : 1 < c.field k.val 1) :
    cmdSetAlertMask c s = finishCommand .refusedParam s := by
  have codes : c.codes settingCode 0 22 = none := codes_none k.isLt (by rw [Nat.zero_add, settingCode_none bad])
  rw [cmdSetAlertMask, codes]
end

/-- Settles O24: the condition as it is computed, the kinds' numbers by evaluation, and the command by its 22 settings. -/
theorem alertConditionAndSetAlertMask : Obligations.AlertConditionAndSetAlertMask := by
  refine ⟨⟨EventLog.condition_iff, by decide⟩, fun s ready => ?_⟩
  rw [exec_setAlertMask s ready]
  refine ⟨fun bs settings => ?_, fun ⟨k, bad⟩ => ?_⟩
  · exact congrArg Host.Outcome.next (cmdSetAlertMask_listed (c := ⟨0x17, s.mp.params⟩) settings)
  · exact congrArg Host.Outcome.next (cmdSetAlertMask_badParam bad)

/-! ## SET LOG MASK and CLEAR LOG OVERFLOW (R177, R179) -/

section
variable {c : Command} {s : State}

theorem cmdSetLogMask_listed {d u m : Bool} (denied : c.field 0 1 = bit d) (unavailable : c.field 1 1 = bit u)
    (malformed : c.field 2 1 = bit m) :
    cmdSetLogMask c s = finishCommand .doneOk (s.withEl { s.el with logMask := ⟨d, u, m⟩ }) := by
  rw [cmdSetLogMask, denied, unavailable, malformed, settingCode_bit, settingCode_bit, settingCode_bit]

theorem cmdSetLogMask_badParam (bad : 1 < c.field 0 1 ∨ 1 < c.field 1 1 ∨ 1 < c.field 2 1) :
    cmdSetLogMask c s = finishCommand .refusedParam s := by
  unfold cmdSetLogMask
  split
  · next denied unavailable malformed =>
    obtain h | h | h := bad
    · exact nomatch (settingCode_none h).symm.trans denied
    · exact nomatch (settingCode_none h).symm.trans unavailable
    · exact nomatch (settingCode_none h).symm.trans malformed
  · rfl
end

/-- Settles O26: SET LOG MASK by whether its three bytes are settings, and CLEAR LOG OVERFLOW, which refuses nothing. -/
theorem setLogMaskAndClearOverflow : Obligations.SetLogMaskAndClearOverflow := by
  refine ⟨fun s ready => ?_, fun s ready => exec_clearLogOverflow s ready⟩
  rw [exec_setLogMask s ready]
  refine ⟨fun d u m denied unavailable malformed => ?_, fun bad => ?_⟩
  · exact congrArg Host.Outcome.next (cmdSetLogMask_listed denied unavailable malformed)
  · exact congrArg Host.Outcome.next (cmdSetLogMask_badParam bad)

end Sys2Proof.Machine
end

section
/-! PROOFS. Every step keeps Law 11 and ALERT# at its condition (R173 to R176): what a step does to the Event Log is a chain of the log's
own operations, each of which keeps both, save at the two edges of PORST#. -/

namespace Sys2Proof.Machine

/-! ## Chains of the log's operations -/

/-- `f` comes from `e` by records offered, heads acknowledged, masks set and overflows cleared (R172 to R179). -/
inductive EventLog.Reaches (e : EventLog) : EventLog → Prop
  | refl : EventLog.Reaches e e
  | offer {f : EventLog} (h : EventLog.Reaches e f) (r : Record) : EventLog.Reaches e (f.offer r)
  | acknowledge {f : EventLog} (h : EventLog.Reaches e f) : EventLog.Reaches e f.acknowledge
  | setLogMask {f : EventLog} (h : EventLog.Reaches e f) (m : LogMask) : EventLog.Reaches e { f with logMask := m }
  | setAlertMask {f : EventLog} (h : EventLog.Reaches e f) (m : Vector Bool 22) :
      EventLog.Reaches e (EventLog.refresh { f with alertMask := m })
  | clearOverflow {f : EventLog} (h : EventLog.Reaches e f) :
      EventLog.Reaches e (EventLog.refresh { f with dropped := 0, overflow := false })

/-- An ACK leaves ALERT# at its condition: the line is taken afresh, or nothing changed (R175, R176). -/
theorem EventLog.acknowledge_alert {e : EventLog} (h : e.alert = e.condition) : e.acknowledge.alert = e.acknowledge.condition := by
  cases held : e.log with
  | nil => rwa [EventLog.acknowledge_nil held]
  | cons r rest =>
    rw [EventLog.acknowledge_cons held]
    rfl

/-- Every operation of the log keeps Law 11. -/
theorem EventLog.Reaches.law {e f : EventLog} (h : e.Reaches f) (law : e.Law) : f.Law := by
  induction h with
  | refl => exact law
  | offer _ r ih => exact ih.offer r
  | acknowledge _ ih => exact ih.acknowledge
  | setLogMask | setAlertMask | clearOverflow => assumption

/-- Every operation of the log keeps ALERT# at its condition: the log mask is no part of it, and the others take it afresh (R176). -/
theorem EventLog.Reaches.alert {e f : EventLog} (h : e.Reaches f) (alert : e.alert = e.condition) : f.alert = f.condition := by
  induction h with
  | refl => exact alert
  | offer _ r ih => exact EventLog.offer_alert ih r
  | acknowledge _ ih => exact EventLog.acknowledge_alert ih
  | setLogMask _ m ih => exact ih
  | setAlertMask | clearOverflow => rfl

/-- The log as it was is reached. -/
theorem reaches_of_eq {e f : EventLog} (h : f = e) : e.Reaches f := h ▸ .refl

/-- A cascade does nothing to the log but offer records. -/
theorem Moves.log {s t : State} {e : EventLog} (m : Moves s t) (h : e.Reaches s.el) : e.Reaches t.el := by
  induction m with
  | refl => exact h
  | step _ m ih =>
    cases m with
    | offer r => exact ih.offer r
    | _ => exact ih

/-! ## Mailbox commands -/

section
variable (c : Command) (s : State)

/-- A command on a region works on the log by its own operations when it does so for the region it names. -/
theorem onRegion_log {f : RegionId → State → State} (hf : ∀ r, s.el.Reaches (f r s).el) : s.el.Reaches (onRegion c f s).el := by
  unfold onRegion
  split
  · exact .refl
  · exact hf _

theorem cmdDefineRegion_log : s.el.Reaches (cmdDefineRegion c s).el := by
  refine onRegion_log c s fun r => ?_
  unfold defineRegion
  repeat' split
  all_goals exact .refl

theorem cmdClearRegion_log : s.el.Reaches (cmdClearRegion c s).el := by
  refine onRegion_log c s fun r => ?_
  unfold clearRegion
  repeat' split
  all_goals exact .refl

theorem cmdSetAccess_log : s.el.Reaches (cmdSetAccess c s).el := by
  unfold cmdSetAccess
  repeat' split
  all_goals exact .refl

theorem cmdMapRequester_log : s.el.Reaches (cmdMapRequester c s).el := by
  unfold cmdMapRequester
  split <;> exact .refl

theorem cmdSetUnmappedPolicy_log : s.el.Reaches (cmdSetUnmappedPolicy c s).el := by
  unfold cmdSetUnmappedPolicy
  split <;> exact .refl

theorem cmdUnfence_log : s.el.Reaches (cmdUnfence c s).el := by
  refine onRegion_log c s fun r => ?_
  split <;> exact .refl

theorem cmdSetHealth_log : s.el.Reaches (cmdSetHealth c s).el := by
  refine onRegion_log c s fun r => ?_
  unfold setHealth
  repeat' split
  all_goals exact .refl

theorem cmdSetPacing_log : s.el.Reaches (cmdSetPacing c s).el := by
  unfold cmdSetPacing
  split <;> exact .refl

theorem cmdSetTimeout_log : s.el.Reaches (cmdSetTimeout c s).el := by
  unfold cmdSetTimeout
  split <;> exact .refl

theorem cmdSetSweepShare_log : s.el.Reaches (cmdSetSweepShare c s).el := by
  unfold cmdSetSweepShare
  split <;> exact .refl

/-- A command answered in the result registers. -/
theorem answered_log (bs : List Byte) : (finishCommand .doneOk (writeResults 0 bs s)).el = s.el := by
  rw [finishCommand_el, writeResults_el]

theorem cmdActivate_log : s.el.Reaches (cmdActivate c s).el := by
  refine (moves_run .refl).log (onRegion_log c s fun r => ?_)
  unfold activate
  split
  · exact .refl
  · split
    · split
      · exact .refl
      · exact (moves_startNext .refl).log (reaches_of_eq (answered_log _ _))
    · exact .refl

theorem cmdDeactivate_log : s.el.Reaches (cmdDeactivate c s).el := by
  refine (moves_run .refl).log (onRegion_log c s fun r => ?_)
  unfold deactivate
  split
  · exact (moves_push _ (moves_cancelJobs _ .refl)).log .refl
  · exact .refl

theorem cmdFormat_log : s.el.Reaches (cmdFormat c s).el := by
  refine (moves_run .refl).log (onRegion_log c s fun r => ?_)
  unfold formatRegion
  split
  · exact .refl
  · split
    · exact .refl
    · exact (moves_cancelJobs _ .refl).log (reaches_of_eq (answered_log _ _))

theorem queueRange_log (k : JobKind) (r : RegionId) : s.el.Reaches (queueRange k c r s).el := by
  unfold queueRange
  split
  · exact .refl
  · split
    · exact .refl
    · exact (moves_startNext .refl).log (reaches_of_eq (answered_log _ _))

theorem cmdScrub_log : s.el.Reaches (cmdScrub c s).el := by
  refine (moves_run .refl).log (onRegion_log c s fun r => ?_)
  unfold scrubRegion
  split
  · exact .refl
  · exact queueRange_log c s .scrub r

theorem cmdReblank_log : s.el.Reaches (cmdReblank c s).el := by
  refine (moves_run .refl).log (onRegion_log c s fun r => ?_)
  unfold reblankRegion
  split
  · exact .refl
  · exact queueRange_log c s .reblank r

theorem cmdCancelSweep_log : s.el.Reaches (cmdCancelSweep c s).el := by
  unfold cmdCancelSweep
  split
  · exact .refl
  · split
    · exact .refl
    · split
      · exact .refl
      · exact (moves_run (moves_cancelJobs _ .refl)).log .refl

theorem cmdFlush_log : s.el.Reaches (cmdFlush c s).el := by
  unfold cmdFlush
  split
  · exact .refl
  · exact (moves_makeFlush _ _ .refl).log .refl

theorem cmdSetLogMask_log : s.el.Reaches (cmdSetLogMask c s).el := by
  unfold cmdSetLogMask
  split
  · exact .setLogMask .refl _
  · exact .refl

theorem cmdSetAlertMask_log : s.el.Reaches (cmdSetAlertMask c s).el := by
  unfold cmdSetAlertMask
  split
  · exact .setAlertMask .refl _
  · exact .refl

theorem cmdResetEngine_log : s.el.Reaches (cmdResetEngine s).el :=
  (moves_run (moves_push _ (moves_abandonAll (moves_cancelJobs _ .refl)))).log .refl

/-- Every mailbox command: each of the 25 by its own lemma or because it leaves the log alone, and a code that names none is refused. -/
theorem runCommand_log : s.el.Reaches (runCommand c s).el := by
  unfold runCommand
  split
  · exact cmdDefineRegion_log c s
  · exact cmdClearRegion_log c s
  · exact onRegion_log c s fun _ => reaches_of_eq (answered_log s _)
  · exact cmdSetAccess_log c s
  · exact cmdMapRequester_log c s
  · exact cmdSetUnmappedPolicy_log c s
  · exact cmdActivate_log c s
  · exact cmdDeactivate_log c s
  · exact cmdUnfence_log c s
  · exact cmdSetHealth_log c s
  · exact onRegion_log c s fun _ => .refl
  · exact onRegion_log c s fun _ => .refl
  · exact cmdFormat_log c s
  · exact cmdScrub_log c s
  · exact cmdReblank_log c s
  · exact cmdCancelSweep_log c s
  · exact cmdSetPacing_log c s
  · exact reaches_of_eq (answered_log s _)
  · exact cmdFlush_log c s
  · exact cmdSetTimeout_log c s
  · exact cmdSetSweepShare_log c s
  · exact cmdSetLogMask_log c s
  · exact cmdSetAlertMask_log c s
  · exact .clearOverflow .refl
  · exact cmdResetEngine_log s
  · exact .refl
end

/-! ## Bytes on the bus -/

/-- A byte written to a register: the ACK register takes the head, and the command register a command, or the record of an overrun. -/
theorem writeRegister_log (off v : Byte) (s : State) : s.el.Reaches (writeRegister off v s).el := by
  unfold writeRegister
  split
  · exact .refl
  · split
    · unfold writeCommand
      split
      · exact (moves_offer _ .refl).log .refl
      · exact runCommand_log _ (handOver v s)
    · split
      · exact .acknowledge .refl
      · split
        · exact reaches_of_eq (withMp_el s _)
        · exact .refl

theorem takeByte_log (v : Byte) (s : State) : s.el.Reaches (takeByte v s).el := by
  unfold takeByte
  split
  · exact .refl
  · split
    · unfold takeAddress
      split <;> exact .refl
    · exact .refl
    · exact writeRegister_log s.mp.offset v (acceptData s)
    all_goals exact .refl

/-! ## The other rows -/

theorem sendResponse_el (s : State) : (sendResponse s).el = s.el := by
  unfold sendResponse
  split <;> rfl

theorem admitHead_el (i : SlotId) (s : State) : (admitHead i s).el = s.el := by
  unfold admitHead
  generalize (s.slot i).parts = ps
  exact List.foldlRecOn ps _ (motive := fun t : State => t.el = s.el) rfl fun t same p _ => same

theorem grantRequests_el (n : Nat) (s : State) : (grantRequests n s).el = s.el := by
  induction n generalizing s with
  | zero => rfl
  | succ n ih =>
    unfold grantRequests
    split
    · rfl
    · split
      · rfl
      · exact ih _

theorem examineAdmission_log (s : State) : s.el.Reaches (examineAdmission s).el := by
  unfold examineAdmission
  split
  · exact .refl
  · split
    · exact (moves_refuse _ _ _ _ (moves_withObt _ (by rfl) .refl)).log .refl
    · split
      · exact (moves_run .refl).log (reaches_of_eq (admitHead_el _ _))
      · exact .refl

theorem responseArrives_log (t : DownTagId) (ok : Bool) (data : List Byte) (s : State) :
    s.el.Reaches (responseArrives t ok data s).el := by
  unfold responseArrives
  split
  · exact .refl
  · split
    · refine (moves_run .refl).log ?_
      unfold takeResponse
      split <;> exact (moves_complete _ _ _ .refl).log .refl
    · unfold lateResponse
      split <;> exact (moves_offer _ .refl).log .refl

theorem responseExpired_log (t : DownTagId) (s : State) : s.el.Reaches (responseExpired t s).el := by
  unfold responseExpired
  split
  · next q _ _ =>
    have posted : s.el.Reaches (offer (downstreamRecord .timeout q.key) s).el := (moves_offer _ .refl).log .refl
    exact (moves_run (moves_complete _ _ _ .refl)).log posted
  · exact .refl

/-- The two edges of PORST#. -/
def isPorstEdge : Instr → Bool
  | .porstAsserted | .porstReleased _ => true
  | _ => false

/-- A command that is no edge of PORST# works on the log by the log's own operations. -/
theorem exec_log {c : Instr} {s t : State} (edge : isPorstEdge c = false) (e : exec c s = .next t) : s.el.Reaches t.el := by
  cases hb : busByte c with
  | some v =>
    rw [exec_of_busByte hb] at e
    cases e
    exact takeByte_log v s
  | none =>
    cases c with
    | readRequest q t a n => cases e; exact (moves_arrive _ .refl).log .refl
    | writeRequest q t a d m => cases e; exact (moves_arrive _ .refl).log .refl
    | responseSent => cases e; exact reaches_of_eq (sendResponse_el s)
    | admissionExamination => cases e; exact examineAdmission_log s
    | bufferWaitExamination => cases e; exact (moves_run (moves_examineBuffers _ .refl)).log .refl
    | allocationExamination => cases e; exact (moves_examineAllocation _ .refl).log .refl
    | retryTimerExpiry l => cases e; exact (moves_retryExpired l .refl).log .refl
    | pacingTimerExpiry => cases e; exact (moves_pacingExpired s).log .refl
    | requestGrant => cases e; exact reaches_of_eq (grantRequests_el 16 s)
    | downstreamResponse t ok d => cases e; exact responseArrives_log t ok d s
    | responseTimerExpiry t => cases e; exact responseExpired_log t s
    | quarantineTimerExpiry t => cases e; split <;> exact .refl
    | logHeadRead m => cases e; split <;> exact .refl
    | frstAsserted => rw [← Host.Outcome.next.inj e]; exact (moves_run (moves_abandonAll .refl)).log .refl
    | frstReleased => cases e; exact .refl
    | startCondition => cases e; split <;> exact .refl
    | stopCondition => cases e; split <;> exact .refl
    | porstAsserted | porstReleased => cases edge
    | _ => cases hb

/-- A command that is no edge of PORST# leaves that pin as it is. -/
theorem exec_porst {c : Instr} {s t : State} (edge : isPorstEdge c = false) (e : exec c s = .next t) :
    t.pins.porst = s.pins.porst := by
  cases pin : isPinEdge c with
  | false => rw [exec_pins pin e]
  | true =>
    cases c with
    | frstAsserted =>
      rw [← Host.Outcome.next.inj e, assertFrst, (moves_run (moves_abandonAll .refl)).pins]
      rfl
    | frstReleased => cases e; rfl
    | porstAsserted | porstReleased => cases edge
    | _ => cases pin

/-! ## The two laws -/

/-- Every command keeps Law 11: at an assertion of PORST# the records stay, and a release empties the log. -/
theorem exec_logLaw {c : Instr} {s t : State} (h : logLaw s) (e : exec c s = .next t) : logLaw t := by
  cases edge : isPorstEdge c with
  | false => exact (exec_log edge e).law h
  | true =>
    cases c with
    | porstAsserted => cases e; exact h
    | porstReleased a =>
      rw [← Host.Outcome.next.inj e]
      split
      · exact logLaw_reset
      · exact h
    | _ => cases edge

/-- Every command keeps ALERT# at its condition: an assertion of PORST# suspends the law, and a release leaves
an empty log and ALERT# not asserted (R190). -/
theorem exec_alertLaw {c : Instr} {s t : State} (h : alertLaw s) (e : exec c s = .next t) : alertLaw t := by
  cases edge : isPorstEdge c with
  | false =>
    intro released
    exact (exec_log edge e).alert (h (by rwa [← exec_porst edge e]))
  | true =>
    cases c with
    | porstAsserted => cases e; exact fun released => nomatch released
    | porstReleased a =>
      rw [← Host.Outcome.next.inj e]
      split
      · exact fun _ => rfl
      · exact h
    | _ => cases edge

/-- A law that every command keeps, and that does not look at the queue of commands, is kept by every step. -/
theorem step_keeps {P : State → Prop} (command : ∀ {c s t}, P s → exec c s = .next t → P t)
    (queue : ∀ {s rest}, P s → P (s.withPending rest)) {s t : State} (h : P s) (e : step s = .next t) : P t := by
  unfold step at e
  split at e
  · cases e; exact h
  · exact command (queue h) e

/-- Settles O53: the empty queue idles, and every command keeps both laws. -/
theorem everyStepKeepsTheLogLaws : Obligations.EveryStepKeepsTheLogLaws :=
  ⟨fun _ _ => step_keeps exec_logLaw id, fun _ _ => step_keeps exec_alertLaw id⟩

end Sys2Proof.Machine
end

section
/-! PROOFS. What a mailbox command does to the mailbox, said once for all codes (R181 to R183): so the mailbox stays BUSY exactly while a
long command works (R182), and a refused command changes nothing beyond the mailbox (R183). -/

namespace Sys2Proof.Machine

/-! ## The answer to a command -/

/-- `t` answers a command handed over in `s`: ended by a result code, and with no internal event waiting that is all; or ended DONE_OK
after its effects and before a cascade; or a long command accepted before a cascade. -/
inductive Answered (s : State) : State → Prop
  | ended {t : State} (code : ResultCode) (m : Moves (finishCommand code s) t) (quiet : s.work = [] → t = finishCommand code s) :
      Answered s t
  | served {u t : State} (m : Moves (finishCommand .doneOk u) t) : Answered s t
  | long {u t : State} (c : LongCommand) (accepted : u.mp = (startLong c s).mp) (m : Moves u t) : Answered s t

section
variable (c : Command) (s : State)

theorem finishCommand_answered (code : ResultCode) : Answered s (finishCommand code s) := .ended code .refl fun _ => rfl

/-- The cascade after an answer belongs to the answer. -/
theorem Answered.run {s t : State} (h : Answered s t) : Answered s (run t) := by
  cases h with
  | ended code m quiet => exact .ended code (moves_run m) fun work => by rw [quiet work]; exact run_quiet _ work rfl
  | served m => exact .served (moves_run m)
  | long c accepted m => exact .long c accepted (moves_run m)

/-- A command on a region is answered when it is so for the region it names. -/
theorem onRegion_answered {f : RegionId → State → State} (hf : ∀ r, Answered s (f r s)) : Answered s (onRegion c f s) := by
  unfold onRegion
  split
  · exact finishCommand_answered s _
  · exact hf _

/-! ## The Region Unit's commands -/

theorem cmdDefineRegion_answered : Answered s (cmdDefineRegion c s) := by
  refine onRegion_answered c s fun r => ?_
  unfold defineRegion
  split
  · exact finishCommand_answered s _
  · split
    · exact finishCommand_answered s _
    · split
      · exact finishCommand_answered s _
      · exact .served .refl

theorem cmdClearRegion_answered : Answered s (cmdClearRegion c s) := by
  refine onRegion_answered c s fun r => ?_
  unfold clearRegion
  split
  · exact finishCommand_answered s _
  · split
    · exact finishCommand_answered s _
    · exact .served .refl

theorem cmdSetAccess_answered : Answered s (cmdSetAccess c s) := by
  unfold cmdSetAccess
  split
  · split
    · exact finishCommand_answered s _
    · exact .served .refl
  · exact finishCommand_answered s _

theorem cmdMapRequester_answered : Answered s (cmdMapRequester c s) := by
  unfold cmdMapRequester
  split
  · exact .served .refl
  · exact finishCommand_answered s _

theorem cmdSetUnmappedPolicy_answered : Answered s (cmdSetUnmappedPolicy c s) := by
  unfold cmdSetUnmappedPolicy
  split
  · exact .served .refl
  · exact finishCommand_answered s _

theorem cmdActivate_answered : Answered s (cmdActivate c s) := by
  refine (onRegion_answered c s fun r => ?_).run
  unfold activate
  split
  · exact finishCommand_answered s _
  · split
    · split
      · exact finishCommand_answered s _
      · exact .served (moves_startNext .refl)
    · exact .served .refl

theorem cmdDeactivate_answered : Answered s (cmdDeactivate c s) := by
  refine (onRegion_answered c s fun r => ?_).run
  unfold deactivate
  split
  · next drainable => exact .long (.deactivate r) rfl (moves_startDrain r (RegionState.ne_empty_of_drainable drainable) .refl)
  · exact finishCommand_answered s _

theorem cmdUnfence_answered : Answered s (cmdUnfence c s) := by
  refine onRegion_answered c s fun r => ?_
  split
  · exact finishCommand_answered s _
  · exact .served .refl

theorem cmdSetHealth_answered : Answered s (cmdSetHealth c s) := by
  refine onRegion_answered c s fun r => ?_
  unfold setHealth
  split
  · exact finishCommand_answered s _
  · split
    · exact finishCommand_answered s _
    · split
      · exact finishCommand_answered s _
      · exact .served .refl

/-! ## The other units' commands -/

theorem cmdFormat_answered : Answered s (cmdFormat c s) := by
  refine (onRegion_answered c s fun r => ?_).run
  unfold formatRegion
  split
  · exact finishCommand_answered s _
  · split
    · exact finishCommand_answered s _
    · exact .served (moves_cancelJobs _ .refl)

theorem queueRange_answered (k : JobKind) (r : RegionId) : Answered s (queueRange k c r s) := by
  unfold queueRange
  split
  · exact finishCommand_answered s _
  · split
    · exact finishCommand_answered s _
    · exact .served (moves_startNext .refl)

theorem cmdScrub_answered : Answered s (cmdScrub c s) := by
  refine (onRegion_answered c s fun r => ?_).run
  unfold scrubRegion
  split
  · exact finishCommand_answered s _
  · exact queueRange_answered c s .scrub r

theorem cmdReblank_answered : Answered s (cmdReblank c s) := by
  refine (onRegion_answered c s fun r => ?_).run
  unfold reblankRegion
  split
  · exact finishCommand_answered s _
  · exact queueRange_answered c s .reblank r

theorem cmdCancelSweep_answered : Answered s (cmdCancelSweep c s) := by
  unfold cmdCancelSweep
  split
  · exact finishCommand_answered s _
  · split
    · exact finishCommand_answered s _
    · split
      · exact finishCommand_answered s _
      · exact .served (moves_run (moves_cancelJobs _ .refl))

theorem cmdSetPacing_answered : Answered s (cmdSetPacing c s) := by
  unfold cmdSetPacing
  split
  · exact finishCommand_answered s _
  · exact .served .refl

theorem cmdFlush_answered : Answered s (cmdFlush c s) := by
  unfold cmdFlush
  split
  · exact finishCommand_answered s _
  · exact .long .flush rfl (moves_makeFlush _ _ .refl)

theorem cmdSetTimeout_answered : Answered s (cmdSetTimeout c s) := by
  unfold cmdSetTimeout
  split
  · exact finishCommand_answered s _
  · exact .served .refl

theorem cmdSetSweepShare_answered : Answered s (cmdSetSweepShare c s) := by
  unfold cmdSetSweepShare
  split
  · exact finishCommand_answered s _
  · exact .served .refl

theorem cmdSetLogMask_answered : Answered s (cmdSetLogMask c s) := by
  unfold cmdSetLogMask
  split
  · exact .served .refl
  · exact finishCommand_answered s _

theorem cmdSetAlertMask_answered : Answered s (cmdSetAlertMask c s) := by
  unfold cmdSetAlertMask
  split
  · exact .served .refl
  · exact finishCommand_answered s _

/-- What RESET ENGINE does after its drains have begun is a cascade (R186). -/
theorem moves_cmdResetEngine : Moves (drainRegions (markReset (startLong (.resetEngine false) s))) (cmdResetEngine s) :=
  moves_run (moves_push _ (moves_abandonAll (moves_cancelJobs _ .refl)))

theorem cmdResetEngine_answered : Answered s (cmdResetEngine s) :=
  .long (u := drainRegions (markReset (startLong (.resetEngine false) s))) (.resetEngine false) rfl (moves_cmdResetEngine s)

/-- Every mailbox command is answered at its hand-over (R181): it ends there, refused or served, or goes on as a long command. -/
theorem runCommand_answered : Answered s (runCommand c s) := by
  unfold runCommand
  split
  · exact cmdDefineRegion_answered c s
  · exact cmdClearRegion_answered c s
  · exact onRegion_answered c s fun _ => .served .refl
  · exact cmdSetAccess_answered c s
  · exact cmdMapRequester_answered c s
  · exact cmdSetUnmappedPolicy_answered c s
  · exact cmdActivate_answered c s
  · exact cmdDeactivate_answered c s
  · exact cmdUnfence_answered c s
  · exact cmdSetHealth_answered c s
  · exact onRegion_answered c s fun _ => .served .refl
  · exact onRegion_answered c s fun _ => .served .refl
  · exact cmdFormat_answered c s
  · exact cmdScrub_answered c s
  · exact cmdReblank_answered c s
  · exact cmdCancelSweep_answered c s
  · exact cmdSetPacing_answered c s
  · exact .served .refl
  · exact cmdFlush_answered c s
  · exact cmdSetTimeout_answered c s
  · exact cmdSetSweepShare_answered c s
  · exact cmdSetLogMask_answered c s
  · exact cmdSetAlertMask_answered c s
  · exact .served .refl
  · exact cmdResetEngine_answered s
  · exact finishCommand_answered s _
end

/-! ## BUSY exactly while a long command works (R182) -/

/-- The mailbox is BUSY exactly with a long command in progress (R182). -/
def State.BusyWithLong (s : State) : Prop := s.mp.mailbox = .busy ↔ s.mp.long.isSome = true

theorem longLaw_iff (s : State) : longLaw s ↔ (s.pins.porst = false → s.BusyWithLong) := Iff.rfl

section
variable {s t : State}

theorem busyWithLong_of_mp (h : s.BusyWithLong) (e : t.mp = s.mp) : t.BusyWithLong := by
  unfold State.BusyWithLong
  rw [e]
  exact h

theorem finishCommand_busyWithLong (code : ResultCode) (s : State) : (finishCommand code s).BusyWithLong :=
  ⟨nofun, nofun⟩

theorem Moves.busyWithLong (m : Moves s t) (h : s.BusyWithLong) : t.BusyWithLong := by
  obtain ⟨-, -, kept⟩ := m.mp
  exact kept h

/-- A command handed over to a BUSY mailbox leaves it BUSY exactly if it is accepted as a long one and still works. -/
theorem Answered.busyWithLong (h : Answered s t) (busy : s.mp.mailbox = .busy) : t.BusyWithLong := by
  cases h with
  | ended code m quiet => exact m.busyWithLong (finishCommand_busyWithLong code s)
  | served m => exact m.busyWithLong (finishCommand_busyWithLong .doneOk _)
  | long c accepted m =>
    have started : (startLong c s).BusyWithLong := ⟨fun _ => rfl, fun _ => busy⟩
    exact m.busyWithLong (busyWithLong_of_mp started accepted)

theorem writeStatus_busyWithLong (h : s.BusyWithLong) : (writeStatus s).BusyWithLong := by
  unfold State.BusyWithLong at h ⊢
  show (if s.mp.mailbox = .done then MailboxState.idle else s.mp.mailbox) = .busy ↔ s.mp.long.isSome = true
  rw [← h]
  split
  · next done => rw [done]; exact ⟨nofun, nofun⟩
  · exact Iff.rfl

theorem writeCommand_busyWithLong (code : Byte) (h : s.BusyWithLong) : (writeCommand code s).BusyWithLong := by
  unfold writeCommand
  split
  · exact h
  · exact (runCommand_answered _ (handOver code s)).busyWithLong rfl

theorem writeRegister_busyWithLong (off v : Byte) (h : s.BusyWithLong) : (writeRegister off v s).BusyWithLong := by
  unfold writeRegister
  split
  · exact writeStatus_busyWithLong h
  · split
    · exact writeCommand_busyWithLong v h
    · split
      · exact h
      · split
        · unfold State.BusyWithLong
          rwa [withMp_mp]
        · exact h

theorem takeByte_busyWithLong (v : Byte) (h : s.BusyWithLong) : (takeByte v s).BusyWithLong := by
  unfold takeByte
  split
  · exact h
  · split
    · unfold takeAddress
      split <;> exact h
    · exact h
    · exact writeRegister_busyWithLong _ v (s := acceptData s) h
    all_goals exact h

/-! ## The other rows -/

theorem sendResponse_mp (s : State) : (sendResponse s).mp = s.mp := by
  unfold sendResponse
  split <;> rfl

theorem admitHead_mp (i : SlotId) (s : State) : (admitHead i s).mp = s.mp := by
  unfold admitHead
  generalize (s.slot i).parts = ps
  exact List.foldlRecOn ps _ (motive := fun t : State => t.mp = s.mp) rfl fun t same p _ => same

theorem grantRequests_mp (n : Nat) (s : State) : (grantRequests n s).mp = s.mp := by
  induction n generalizing s with
  | zero => rfl
  | succ n ih =>
    unfold grantRequests
    split
    · rfl
    · split
      · rfl
      · exact ih _

theorem examineAdmission_busyWithLong (h : s.BusyWithLong) : (examineAdmission s).BusyWithLong := by
  unfold examineAdmission
  split
  · exact h
  · split
    · exact (moves_refuse _ _ _ _ (moves_withObt _ (by rfl) .refl)).busyWithLong h
    · split
      · exact (moves_run .refl).busyWithLong (busyWithLong_of_mp h (admitHead_mp _ _))
      · exact h

theorem responseArrives_busyWithLong (d : DownTagId) (ok : Bool) (data : List Byte) (h : s.BusyWithLong) :
    (responseArrives d ok data s).BusyWithLong := by
  unfold responseArrives
  split
  · exact h
  · split
    · refine (moves_run .refl).busyWithLong ?_
      unfold takeResponse
      split <;> exact (moves_complete _ _ _ .refl).busyWithLong h
    · unfold lateResponse
      split <;> exact h

theorem responseExpired_busyWithLong (d : DownTagId) (h : s.BusyWithLong) : (responseExpired d s).BusyWithLong := by
  unfold responseExpired
  split
  · exact (moves_run (moves_complete _ _ _ .refl)).busyWithLong h
  · exact h

/-- A command that is no edge of PORST# keeps the mailbox BUSY exactly with a long command. -/
theorem exec_busyWithLong {c : Instr} (edge : isPorstEdge c = false) (e : exec c s = .next t) (h : s.BusyWithLong) :
    t.BusyWithLong := by
  cases hb : busByte c with
  | some v =>
    rw [exec_of_busByte hb] at e
    cases e
    exact takeByte_busyWithLong v h
  | none =>
    cases c with
    | readRequest q t a n => cases e; exact (moves_arrive _ .refl).busyWithLong h
    | writeRequest q t a d m => cases e; exact (moves_arrive _ .refl).busyWithLong h
    | responseSent => cases e; exact busyWithLong_of_mp h (sendResponse_mp s)
    | admissionExamination => cases e; exact examineAdmission_busyWithLong h
    | bufferWaitExamination => cases e; exact (moves_run (moves_examineBuffers _ .refl)).busyWithLong h
    | allocationExamination => cases e; exact (moves_examineAllocation _ .refl).busyWithLong h
    | retryTimerExpiry l => cases e; exact (moves_retryExpired l .refl).busyWithLong h
    | pacingTimerExpiry => cases e; exact (moves_pacingExpired s).busyWithLong h
    | requestGrant => cases e; exact busyWithLong_of_mp h (grantRequests_mp 16 s)
    | downstreamResponse t ok d => cases e; exact responseArrives_busyWithLong t ok d h
    | responseTimerExpiry t => cases e; exact responseExpired_busyWithLong t h
    | quarantineTimerExpiry t => cases e; split <;> exact h
    | logHeadRead m => cases e; split <;> exact h
    | frstAsserted => rw [← Host.Outcome.next.inj e]; exact (moves_run (moves_abandonAll .refl)).busyWithLong h
    | frstReleased => cases e; exact h
    | startCondition => cases e; split <;> exact h
    | stopCondition => cases e; split <;> exact h
    | porstAsserted | porstReleased => cases edge
    | _ => cases hb

/-- Every command keeps the law: an assertion of PORST# suspends it, and a release leaves the mailbox IDLE with no long command (R190). -/
theorem exec_longLaw {c : Instr} (h : longLaw s) (e : exec c s = .next t) : longLaw t := by
  cases edge : isPorstEdge c with
  | false =>
    intro released
    exact exec_busyWithLong edge e (h (by rwa [← exec_porst edge e]))
  | true =>
    cases c with
    | porstAsserted => cases e; exact fun released => nomatch released
    | porstReleased a =>
      rw [← Host.Outcome.next.inj e]
      split
      · exact fun _ => ⟨nofun, nofun⟩
      · exact h
    | _ => cases edge
end

/-- Settles O56: the empty queue idles, and every command keeps the law. -/
theorem everyStepKeepsBusyForLongCommands : Obligations.EveryStepKeepsBusyForLongCommands :=
  fun _ _ => step_keeps exec_longLaw id

/-! ## A refused command (R183) -/

/-- A command's code is its byte on the bus. -/
theorem busByte_of_commandCode {c : Instr} {code : Byte} (h : commandCode c = some code) : busByte c = some code := by
  cases c <;> cases h <;> rfl

/-- A command row on the bus, the mailbox ready: it is handed over and taken by its owner (R181). -/
theorem exec_command {c : Instr} {code : Byte} (h : commandCode c = some code) {s : State} (ready : s.takesCommand) :
    exec c s = .next (runCommand ⟨code, s.mp.params⟩ (handOver code s.acked)) := by
  rw [exec_of_busByte (busByte_of_commandCode h), takeByte_command s ready]

/-- The result codes that refuse a command (R183). -/
def ResultCode.Refuses (r : ResultCode) : Prop :=
  r = .refusedState ∨ r = .refusedParam ∨ r = .refusedConflict ∨ r = .refusedLocked ∨ r = .queueFull

/-- A cascade brings no refusal into a mailbox whose result is none. -/
theorem Moves.not_refuses {s t : State} (m : Moves s t) (h : ¬ s.mp.result.Refuses) : ¬ t.mp.result.Refuses := by
  obtain ⟨-, ⟨-, same⟩ | ⟨-, ok | partly⟩, -⟩ := m.mp
  · rwa [same]
  · rw [ok]; simp [ResultCode.Refuses]
  · rw [partly]; simp [ResultCode.Refuses]

/-- A command whose result is a refusal, handed over with no result and no internal event waiting, has done nothing but end. -/
theorem Answered.eq_of_refuses {s t : State} (h : Answered s t) (fresh : s.mp.result = .noResult) (work : s.work = [])
    (refused : t.mp.result.Refuses) : t = finishCommand t.mp.result s := by
  cases h with
  | ended code m quiet => rw [quiet work]; rfl
  | served m => exact absurd refused (m.not_refuses (by simp [finishCommand, ResultCode.Refuses]))
  | long c accepted m =>
    have unrefused : ¬ (startLong c s).mp.result.Refuses := by simp [startLong, fresh, ResultCode.Refuses]
    exact absurd refused (m.not_refuses (by rwa [accepted]))

/-- Settles O30: the command's answer at its hand-over is its end alone. -/
theorem refusedCommandsChangeOnlyTheMailbox : Obligations.RefusedCommandsChangeOnlyTheMailbox := by
  intro c code s t command ready work e refused
  rw [exec_command command ready] at e
  cases e
  exact (runCommand_answered _ (handOver code s.acked)).eq_of_refuses rfl work refused

end Sys2Proof.Machine
end

section
/-! PROOFS. Tags in memory (R4, R189): the eight bytes of a tag field by field, decoding as the inverse of encoding, and the size of a tag
area. -/

namespace Sys2Proof.Machine

/-! ## The bytes of one tag (R189) -/

section
variable (t : Tag)

/-- The last byte of a tag: the blank flag above the epoch. -/
def Tag.lastByte : Byte := BitVec.ofNat 8 (128 * bit t.blank + t.epoch.toNat)

/-- The guard, the locator, the label and the last byte, at their offsets. -/
theorem encodeTag_layout : slice 0 4 (encodeTag t) = leBytes 4 t.guard.toNat ∧ slice 4 2 (encodeTag t) = leBytes 2 t.locator.toNat ∧
    (encodeTag t).getD 6 0 = t.label ∧ (encodeTag t).getD 7 0 = t.lastByte := ⟨rfl, rfl, rfl, rfl⟩

theorem leNat_guardBytes : leNat (slice 0 4 (encodeTag t)) = t.guard.toNat := leNat_leBytes (n := 4) t.guard.isLt

theorem leNat_locatorBytes : leNat (slice 4 2 (encodeTag t)) = t.locator.toNat := leNat_leBytes (n := 2) t.locator.isLt

theorem Tag.lastByte_toNat : t.lastByte.toNat = 128 * bit t.blank + t.epoch.toNat := by
  have epoch := t.epoch.isLt
  have blank := bit_le_one t.blank
  rw [Tag.lastByte, BitVec.toNat_ofNat, Nat.mod_eq_of_lt (by omega)]

/-- Bit 7 of the last byte is the blank flag. -/
theorem Tag.lastByte_blank : t.lastByte.getLsbD 7 = t.blank := by
  have epoch := t.epoch.isLt
  rw [BitVec.getLsbD, t.lastByte_toNat, Nat.testBit_eq_decide_div_mod_eq]
  cases t.blank <;> simp [bit] <;> omega

/-- Bits 6 to 0 of the last byte are the epoch. -/
theorem Tag.lastByte_epoch : t.lastByte.toNat % 128 = t.epoch.toNat := by
  rw [t.lastByte_toNat, Nat.mul_add_mod, Nat.mod_eq_of_lt t.epoch.isLt]

theorem decodeTag_encodeTag : decodeTag (encodeTag t) = t := by
  obtain ⟨-, -, label, last⟩ := encodeTag_layout t
  have epoch : BitVec.ofNat 7 t.lastByte.toNat = t.epoch := by
    rw [← BitVec.toNat_inj, BitVec.toNat_ofNat]
    exact t.lastByte_epoch
  unfold decodeTag
  rw [leNat_guardBytes, leNat_locatorBytes, label, last, t.lastByte_blank, epoch, BitVec.ofNat_toNat, BitVec.setWidth_eq,
    BitVec.ofNat_toNat, BitVec.setWidth_eq]
end

/-! ## The bytes of a tag line (R189) -/

section
variable (ts : Vector Tag 8)

theorem encodeTags_eq_flatten : encodeTags ts = (ts.toList.map encodeTag).flatten := List.flatMap_def

theorem encodeTags_lengths : (ts.toList.map encodeTag).map List.length = List.replicate 8 8 := by
  rw [List.map_map, List.eq_replicate_iff]
  refine ⟨by simp, fun n hn => ?_⟩
  obtain ⟨t, -, rfl⟩ := List.mem_map.mp hn
  exact encodeTag_length t

theorem encodeTags_length : (encodeTags ts).length = 64 := by
  rw [encodeTags_eq_flatten, List.length_flatten, encodeTags_lengths]
  rfl

/-- The `i`-th tag of a line stands at offset 8 × i. -/
theorem slice_encodeTags (i : Fin 8) : slice (8 * i.val) 8 (encodeTags ts) = encodeTag (vget ts i) := by
  have piece : (ts.toList.map encodeTag)[i.val]? = some (encodeTag (vget ts i)) := by
    rw [List.getElem?_map, Vector.getElem?_toList, Vector.getElem?_eq_getElem i.isLt]
    rfl
  have offset : (((ts.toList.map encodeTag).take i.val).map List.length).sum = 8 * i.val := by
    rw [List.map_take, encodeTags_lengths, List.take_replicate, List.sum_replicate_nat, Nat.min_eq_left (Nat.le_of_lt i.isLt),
      Nat.mul_comm]
  have read := slice_flatten_piece piece offset
  rwa [encodeTag_length, ← encodeTags_eq_flatten] at read

theorem decodeTags_encodeTags : decodeTags (encodeTags ts) = ts :=
  vector_ext_vget fun i => by rw [decodeTags, vget_ofFn, slice_encodeTags, decodeTag_encodeTag]
end

/-- Settles O5: the layout of one tag and of a line, read back, and the tag area's size rounded up to a line. -/
theorem tagsDecodeAsEncoded : Obligations.TagsDecodeAsEncoded := by
  refine ⟨fun t => ?_, fun ts => ⟨encodeTags_length ts, decodeTags_encodeTags ts⟩, rfl, fun g b => rfl, fun n => ?_, fun g => rfl⟩
  · obtain ⟨-, -, label, last⟩ := encodeTag_layout t
    rw [last]
    exact ⟨encodeTag_length t, leNat_guardBytes t, leNat_locatorBytes t, label, t.lastByte_blank, t.lastByte_epoch,
      decodeTag_encodeTag t⟩
  · unfold tagAreaBytes
    omega

end Sys2Proof.Machine
end

section
/-! PROOFS. The two-wire bus (R180, R190): what each byte and condition does by the phase of the transfer, bytes written to registers
that take them and to those that do not (R180, R181, R184), and the byte of the register at the offset (R175, R187). -/

namespace Sys2Proof.Machine

/-! ## Conditions, address byte and offset byte (R180, R190) -/

section
variable {s : State}

theorem namesTarget_iff (s : State) (v : Byte) : namesTarget s v = true ↔ v.toNat / 2 = 0x2C + s.mp.strap.toNat := beq_iff_eq

/-- The direction bit of an address byte is its lowest (log entry 10). -/
theorem directionBit_iff (v : Byte) : v.getLsbD 0 = true ↔ v.toNat % 2 = 1 := by
  rw [BitVec.getLsbD, Nat.testBit_zero, decide_eq_true_iff]

/-- No byte is taken while PORST# is asserted, or in a phase that awaits none. -/
theorem takeByte_ignored (v : Byte) (h : s.pins.porst = true ∨ s.mp.phase = .idle ∨ s.mp.phase = .ignored ∨ s.mp.phase = .reading ∨
    s.mp.phase = .readEnded) : takeByte v s = s := by
  unfold takeByte
  split
  · rfl
  · next released =>
    obtain h | h | h | h | h := h
    · exact absurd h released
    all_goals rw [h]

section
variable (released : s.pins.porst = false)
include released

theorem takeByte_address (phase : s.mp.phase = .address) (v : Byte) : takeByte v s = takeAddress v s := by
  rw [takeByte, if_neg (by simp [released]), phase]

theorem takeByte_offset (phase : s.mp.phase = .offset) (v : Byte) : takeByte v s = takeOffset v s := by
  rw [takeByte, if_neg (by simp [released]), phase]
end

/-- An address byte that names this target is acknowledged, and its direction bit opens a read or a write transfer. -/
theorem takeAddress_named {v : Byte} (named : v.toNat / 2 = 0x2C + s.mp.strap.toNat) :
    takeAddress v s = { s with
      mp := { s.mp with phase := if v.toNat % 2 = 1 then .reading else .offset }
      out := { s.out with bus := s.out.bus ++ [.ackBit true] } } := by
  have direction : (if v.getLsbD 0 = true then BusPhase.reading else .offset) = if v.toNat % 2 = 1 then .reading else .offset :=
    if_congr (directionBit_iff v) rfl rfl
  rw [← direction]
  exact if_pos ((namesTarget_iff s v).mpr named)

theorem takeAddress_other {v : Byte} (other : v.toNat / 2 ≠ 0x2C + s.mp.strap.toNat) :
    takeAddress v s = { s with
      mp := { s.mp with phase := .ignored }, out := { s.out with bus := s.out.bus ++ [.ackBit false] } } :=
  if_neg (mt (namesTarget_iff s v).mp other)
end

/-- Settles O27: each condition by PORST#, each byte by the phase of the transfer. -/
theorem busTransfersOpenAndEnd : Obligations.BusTransfersOpenAndEnd := by
  refine ⟨fun s => ⟨fun held => ⟨congrArg _ (if_pos held), congrArg _ (if_pos held)⟩, fun released => ?_⟩, fun c v s byte ignored => ?_⟩
  · have notHeld : ¬ s.pins.porst = true := by simp [released]
    refine ⟨congrArg _ (if_neg notHeld), congrArg _ (if_neg notHeld), fun v phase => ⟨fun named => ?_, fun other => ?_⟩,
      fun v phase => congrArg _ (takeByte_offset released phase v)⟩
    · exact congrArg _ ((takeByte_address released phase v).trans (takeAddress_named named))
    · exact congrArg _ ((takeByte_address released phase v).trans (takeAddress_other other))
  · rw [exec_of_busByte byte, takeByte_ignored v ignored]

/-! ## Bytes written to registers (R180, R181) -/

section
variable (v : Byte) (s : State)

/-- One register written. -/
theorem writeAt_one {n : Nat} (k : Fin n) (v : Byte) (regs : Vector Byte n) : writeAt k.val [v] regs = vset regs k v := by
  refine vector_ext_vget fun i => ?_
  rw [writeAt, vget_ofFn, vget_vset]
  by_cases h : k = i
  · subst h
    simp
  · have apart : k.val ≠ i.val := fun e => h (Fin.ext e)
    rw [if_neg h]
    split
    · rw [List.getElem?_eq_none (by simp; omega)]
      rfl
    · rfl

/-- A parameter register takes the byte. -/
theorem writeRegister_param (k : Fin 28) :
    writeRegister (BitVec.ofNat 8 (0x14 + k.val)) v s = { s with mp := { s.mp with params := vset s.mp.params k v } } := by
  have value : (BitVec.ofNat 8 (0x14 + k.val)).toNat = 0x14 + k.val := by
    rw [BitVec.toNat_ofNat]
    omega
  have other {x : Byte} (h : x.toNat < 0x14 ∨ 0x30 ≤ x.toNat) : BitVec.ofNat 8 (0x14 + k.val) ≠ x := by
    rintro rfl
    omega
  have place : 0x14 + k.val - 0x14 = k.val := Nat.add_sub_cancel_left ..
  rw [writeRegister, if_neg (other (by decide)), if_neg (other (by decide)), if_neg (other (by decide)), value,
    if_pos (by omega), place, writeAt_one]
  rfl

/-- A read-only register or an offset without a register takes no byte. -/
theorem writeRegister_noEffect {off : Byte} (status : off ≠ 0x10) (command : off ≠ 0x12) (ack : off ≠ 0xF0)
    (noParam : off.toNat < 0x14 ∨ 0x30 ≤ off.toNat) : writeRegister off v s = s := by
  rw [writeRegister, if_neg status, if_neg command, if_neg ack, if_neg (by omega)]

/-- A code that names no command is refused REFUSED_PARAM. -/
theorem runCommand_unknown {c : Command} (unknown : c.code.toNat = 0 ∨ 25 < c.code.toNat) :
    runCommand c s = finishCommand .refusedParam s := by
  unfold runCommand
  split
  case h_26 => rfl
  all_goals omega
end

/-- Settles O28: the byte by its offset, and the code by its number. -/
theorem registerWritesAndUnknownCodes : Obligations.RegisterWritesAndUnknownCodes := by
  intro s v
  refine ⟨fun k here => ?_, fun off here status command ack noParam => ?_, fun ready unknown => ?_⟩
  · exact congrArg _ ((takeByte_write s _ v here).trans (writeRegister_param v s.acked k))
  · exact congrArg _ ((takeByte_write s off v here).trans (writeRegister_noEffect v s.acked status command ack noParam))
  · rw [exec_command (c := .unknownCommand v) rfl ready, runCommand_unknown _ (by exact unknown)]
    rfl

/-! ## The overrun flag (R184) -/

theorem writeCommand_busy (code : Byte) {s : State} (busy : s.mp.mailbox = .busy) : writeCommand code s = overrun s := if_pos busy

/-- Settles O29: the command register with the mailbox BUSY, and the status register. -/
theorem overrunAndStatusWrite : Obligations.OverrunAndStatusWrite := by
  intro s
  refine ⟨fun c code command here busy => ?_, fun v here => congrArg _ (takeByte_write s 0x10 v here)⟩
  have taken : takeByte code s = writeCommand code s.acked := takeByte_write s 0x12 code here
  rw [exec_of_busByte (busByte_of_commandCode command), taken, writeCommand_busy code (s := s.acked) busy]
  rfl

end Sys2Proof.Machine
end

section
/-! PROOFS. A read transfer (R180, R187): the log-head window field by field (12.4.3), the byte each offset reads as (12.4.1), and the
transfer after it. -/

namespace Sys2Proof.Machine

/-! ## The log-head window (12.4.3) -/

theorem optBytes_length {α : Type} {n : Nat} {f : α → List Byte} (hf : ∀ a, (f a).length = n) (x : Option α) :
    (optBytes n f x).length = n := by
  cases x with
  | none => exact List.length_replicate
  | some a => exact hf a

theorem TagReport.bytes_length (t : TagReport) : t.bytes.length = 12 := by
  simp only [TagReport.bytes, List.length_append, encodeTag_length, leBytes_length, List.length_singleton]

theorem JobFields.bytes_length (j : JobFields) : j.bytes.length = 14 := by
  simp only [JobFields.bytes, List.length_append, leBytes_length, List.length_singleton]

theorem Record.bytes_length (r : Record) : r.bytes.length = 52 := by
  simp only [Record.bytes, List.length_append, leBytes_length, optBytes_length (leBytes_length _),
    optBytes_length fun k : RegionId => leBytes_length 1 k.val,
    optBytes_length fun k : RecordKind => leBytes_length 1 k.number.val,
    optBytes_length fun g : BitVec 32 => leBytes_length 4 g.toNat, optBytes_length TagReport.bytes_length,
    optBytes_length JobFields.bytes_length,
    optBytes_length (n := 2) (f := fun w : RequesterId × TransactionId => [BitVec.ofNat 8 w.1.toNat, w.2]) fun _ => rfl,
    optBytes_length (n := 5) (f := fun k : RegionId × Nat => leBytes 1 k.1.val ++ leBytes 4 k.2) fun _ => rfl]

section
variable (e : EventLog)

theorem EventLog.window_length : e.window.length = 64 := by
  simp only [EventLog.window, List.length_append, leBytes_length, optBytes_length Record.bytes_length, List.length_replicate]

/-- The record count, the overflow byte and the dropped count. -/
theorem EventLog.window_header : slice 0 1 e.window = leBytes 1 e.log.length ∧ slice 1 1 e.window = leBytes 1 (bit e.overflow) ∧
    slice 2 2 e.window = leBytes 2 e.dropped := ⟨rfl, rfl, rfl⟩

variable {e}

theorem EventLog.window_empty (empty : e.log = []) : slice 4 60 e.window = List.replicate 60 0 := by
  rw [EventLog.window, empty]
  rfl

/-- The head record's sequence number, kind and repeat count. -/
theorem EventLog.window_head {r : Record} {rest : List Record} (head : e.log = r :: rest) :
    slice 4 2 e.window = leBytes 2 r.seq.toNat ∧ slice 6 1 e.window = leBytes 1 r.kind.number.val ∧
      slice 8 1 e.window = leBytes 1 r.repeatCount := by
  obtain ⟨tail, pieces⟩ : ∃ tail, e.window = [leBytes 1 e.log.length, leBytes 1 (bit e.overflow), leBytes 2 e.dropped,
      leBytes 2 r.seq.toNat, leBytes 1 r.kind.number.val, leBytes 1 r.source.code, leBytes 1 r.repeatCount, tail].flatten := by
    apply Exists.intro
    simp only [EventLog.window, head, List.head?_cons, optBytes, Record.bytes, List.flatten_cons, List.flatten_nil, List.append_nil,
      List.append_assoc]
    rfl
  rw [pieces]
  exact ⟨slice_flatten_piece (f := leBytes 2 _) (k := 3) rfl rfl, slice_flatten_piece (f := leBytes 1 _) (k := 4) rfl rfl,
    slice_flatten_piece (f := leBytes 1 _) (k := 6) rfl rfl⟩
end

/-! ## The byte an offset reads as (R180, R187, 12.4.1) -/

theorem inWindow_iff (off : Byte) : inWindow off = true ↔ 0xB0 ≤ off.toNat ∧ off.toNat < 0xF0 := by
  rw [inWindow, Bool.and_eq_true, decide_eq_true_iff, decide_eq_true_iff]

theorem writeOnly_iff (off : Byte) : writeOnly off = true ↔ off = 0x12 ∨ off = 0xF0 := by
  rw [writeOnly, Bool.or_eq_true, beq_iff_eq, beq_iff_eq]

theorem identification_eq : identification = [0x71, 0x3A, 0x12, 0x04, 0x01, 16, 24, 32, 8, 32, 16, 32, 4] := by decide

section
variable (s : State) (w : List Byte)

theorem statusByte_toNat : (BitVec.ofNat 8 s.mp.statusByte).toNat =
    (match s.mp.mailbox with | .idle => 0 | .busy => 1 | .done => 2) + (if s.mp.overrun then 4 else 0) := by
  unfold ManagementPort.statusByte
  cases s.mp.mailbox <;> cases s.mp.overrun <;> rfl

theorem resultCode_toNat (r : ResultCode) : (BitVec.ofNat 8 r.code).toNat = match r with
    | .noResult => 0x00 | .doneOk => 0x01 | .donePartial => 0x02 | .refusedState => 0x10 | .refusedParam => 0x11
    | .refusedConflict => 0x12 | .refusedLocked => 0x13 | .queueFull => 0x14 := by
  cases r <;> rfl

variable {off : Byte}

theorem readRegister_identification (h : off.toNat < 13) : readRegister s w off = identification.getD off.toNat 0 := if_pos h

/-- From the parameter registers up to the log-head window, a byte of the block its offset lies in. -/
theorem readRegister_block (low : 0x14 ≤ off.toNat) (high : off.toNat < 0xF0) :
    readRegister s w off = if off.toNat < 0x30 then s.mp.params.toList.getD (off.toNat - 0x14) 0
      else if off.toNat < 0xB0 then s.mp.results.toList.getD (off.toNat - 0x30) 0 else w.getD (off.toNat - 0xB0) 0 := by
  have other {x : Byte} (h : x.toNat < 0x14 ∨ 0xF0 ≤ x.toNat) : off ≠ x := by
    rintro rfl
    omega
  have readable : ¬ writeOnly off = true := by
    rw [writeOnly_iff]
    exact not_or.mpr ⟨other (by decide), other (by decide)⟩
  rw [readRegister, if_neg (by omega), if_neg (other (by decide)), if_neg (other (by decide)), if_neg readable]
  by_cases params : off.toNat < 0x30
  · rw [if_pos ⟨low, params⟩, if_pos params]
  · rw [if_neg fun h => params h.2, if_neg params]
    by_cases results : off.toNat < 0xB0
    · rw [if_pos ⟨Nat.le_of_not_lt params, results⟩, if_pos results]
    · rw [if_neg fun h => results h.2, if_neg results, if_pos ((inWindow_iff off).mpr ⟨Nat.le_of_not_lt results, high⟩)]

theorem toList_getD {n : Nat} (v : Vector Byte n) (k : Fin n) : v.toList.getD k.val 0 = vget v k := by
  rw [List.getD_eq_getElem?_getD, Vector.getElem?_toList, Vector.getElem?_eq_getElem k.isLt]
  rfl

theorem readRegister_param {k : Fin 28} (h : off.toNat = 0x14 + k.val) : readRegister s w off = vget s.mp.params k := by
  rw [readRegister_block s w (by omega) (by omega), if_pos (by omega), h, Nat.add_sub_cancel_left, toList_getD]

theorem readRegister_result {k : Fin 128} (h : off.toNat = 0x30 + k.val) : readRegister s w off = vget s.mp.results k := by
  rw [readRegister_block s w (by omega) (by omega), if_neg (by omega), if_pos (by omega), h, Nat.add_sub_cancel_left, toList_getD]

theorem readRegister_window {k : Fin 64} (h : off.toNat = 0xB0 + k.val) : readRegister s w off = w.getD k.val 0 := by
  rw [readRegister_block s w (by omega) (by omega), if_neg (by omega), if_neg (by omega), h, Nat.add_sub_cancel_left]

/-- An offset without a register reads as 0 (R180). -/
theorem readRegister_empty (h : off = 0x0D ∨ off = 0x0E ∨ off = 0x0F ∨ off = 0x13 ∨ 0xF0 < off.toNat) : readRegister s w off = 0 := by
  obtain rfl | rfl | rfl | rfl | past := h
  iterate 4 rfl
  have other {x : Byte} (h : x.toNat ≤ 0xF0) : off ≠ x := by
    rintro rfl
    omega
  have readable : ¬ writeOnly off = true := by
    rw [writeOnly_iff]
    exact not_or.mpr ⟨other (by decide), other (by decide)⟩
  have outside : ¬ inWindow off = true := by
    rw [inWindow_iff]
    omega
  rw [readRegister, if_neg (by omega), if_neg (other (by decide)), if_neg (other (by decide)), if_neg readable,
    if_neg (by omega), if_neg (by omega), if_neg outside]

/-! ## The transfer after a byte placed (R180) -/

/-- A byte placed: the offset rises, the window is kept once a byte of it is read, and a write-only register takes a free value. -/
theorem placeByte_eq (more : Bool) : placeByte more s = { s with
    mp := { s.mp with
      offset := s.mp.offset + 1, phase := if more then .reading else .readEnded
      window := if 0xB0 ≤ s.mp.offset.toNat ∧ s.mp.offset.toNat < 0xF0 then some s.windowNow else s.mp.window }
    out := { s.out with bus := s.out.bus ++ [.byte (readRegister s s.windowNow s.mp.offset)] }
    free := if s.mp.offset = 0x12 ∨ s.mp.offset = 0xF0 then s.free + 1 else s.free } := by
  have window : (if inWindow s.mp.offset = true then some s.windowNow else s.mp.window) =
      if 0xB0 ≤ s.mp.offset.toNat ∧ s.mp.offset.toNat < 0xF0 then some s.windowNow else s.mp.window :=
    if_congr (inWindow_iff _) rfl rfl
  have free : s.free + bit (writeOnly s.mp.offset) = if s.mp.offset = 0x12 ∨ s.mp.offset = 0xF0 then s.free + 1 else s.free :=
    (apply_ite (s.free + ·) (writeOnly s.mp.offset = true) 1 0).trans (if_congr (writeOnly_iff _) rfl rfl)
  rw [← window, ← free]
  rfl
end

/-- Settles O31: the transfer after the byte, the byte by its offset, and the window by its fields. -/
theorem readTransferPlacesTheRegisterByte : Obligations.ReadTransferPlacesTheRegisterByte := by
  refine ⟨⟨fun s more away => ?_, fun s more released reading => ?_⟩, fun e => ?_⟩
  · have noTransfer : ¬ (s.pins.porst = false ∧ s.mp.phase = .reading) := fun ⟨released, reading⟩ =>
      away.elim (fun held => by simp [held] at released) fun other => other reading
    exact congrArg _ (if_neg noTransfer)
  · have placed : exec (.logHeadRead more) s = .next (placeByte more s) := congrArg _ (if_pos ⟨released, reading⟩)
    refine ⟨s.windowNow, readRegister s s.windowNow s.mp.offset, rfl, placed.trans (congrArg _ (placeByte_eq s more)),
      fun h => ?_, fun h => ?_, fun h => ?_, fun k => readRegister_param s _, fun k => readRegister_result s _,
      fun k => readRegister_window s _, readRegister_empty s _⟩
    · rw [readRegister_identification s _ h, identification_eq]
    · rw [h]
      exact statusByte_toNat s
    · rw [h]
      exact resultCode_toNat s.mp.result
  · obtain ⟨count, overflow, dropped⟩ := e.window_header
    have bound := bit_le_one e.overflow
    rw [count, overflow, dropped]
    refine ⟨e.window_length, fun few => leNat_leBytes (by omega), leNat_leBytes (by omega), fun few => leNat_leBytes (by omega),
      EventLog.window_empty, fun r rest head => ?_⟩
    obtain ⟨seq, kind, repeats⟩ := EventLog.window_head head
    have number := r.kind.number.isLt
    rw [seq, kind, repeats]
    exact ⟨leNat_leBytes (n := 2) r.seq.isLt, leNat_leBytes (by omega), fun few => leNat_leBytes (by omega)⟩

end Sys2Proof.Machine
end

section
/-! PROOFS. RESET ENGINE (R186): the end of the command by what it waits for, what it keeps, and its acceptance, at which every region in
service drains (R144), every job is cancelled (R129) and every slot abandoned (R157). -/

namespace Sys2Proof.Machine

/-! ## The end of the command (R186) -/

theorem toList_all_iff {α : Type} {n : Nat} (v : Vector α n) (p : α → Bool) : v.toList.all p = true ↔ ∀ i, p (vget v i) = true := by
  rw [Vector.all_toList, Vector.all_eq_true, Fin.forall_iff]
  rfl

theorem toList_any_iff {α : Type} {n : Nat} (v : Vector α n) (p : α → Bool) : v.toList.any p = true ↔ ∃ i, p (vget v i) = true := by
  rw [Vector.any_toList, Vector.any_eq_true, Fin.exists_iff]
  rfl

/-- The Memory Arbiter's part goes on while a marked request is queued or IN_FLIGHT (R169). -/
theorem MemoryArbiter.inReset_iff (s : State) : s.ma.inReset = true ↔
    (∃ q ∈ s.ma.tagQueue ++ s.ma.workQueue ++ s.ma.sweepQueue, q.inReset = true) ∨
      ∃ t q, (s.downTag t).state = .inFlight ∧ (s.downTag t).request = some q ∧ q.inReset = true := by
  unfold MemoryArbiter.inReset
  rw [← List.any_append, ← List.any_append, Bool.or_eq_true, List.any_eq_true, toList_any_iff]
  refine or_congr Iff.rfl (exists_congr fun t => ?_)
  rw [Bool.and_eq_true, beq_iff_eq, Option.any_eq_true]
  exact exists_and_left.symm

/-- What a RESET ENGINE in progress waits for. -/
def State.resetWaits (s : State) : Prop :=
  (∃ i, (s.slot i).inReset = true) ∨ s.su.jobs ≠ [] ∨ (∃ r, (s.region r).state = .draining) ∨
    (∃ q ∈ s.ma.tagQueue ++ s.ma.workQueue ++ s.ma.sweepQueue, q.inReset = true) ∨
    ∃ t q, (s.downTag t).state = .inFlight ∧ (s.downTag t).request = some q ∧ q.inReset = true

theorem resetPartsEnded_iff (s : State) : resetPartsEnded s = true ↔ ¬ s.resetWaits := by
  have slots : s.tu.slots.toList.all (!·.inReset) = true ↔ ¬ ∃ i, (s.slot i).inReset = true := by
    rw [toList_all_iff, not_exists]
    exact forall_congr' fun i => by simp [State.slot]
  have jobs : s.su.jobs.isEmpty = true ↔ ¬ s.su.jobs ≠ [] := by simp
  have drains : s.ru.regions.toList.all (·.state != .draining) = true ↔ ¬ ∃ r, (s.region r).state = .draining := by
    rw [toList_all_iff, not_exists]
    exact forall_congr' fun r => by simp [State.region]
  have requests : (!s.ma.inReset) = true ↔ ¬ s.ma.inReset = true := by simp
  unfold resetPartsEnded State.resetWaits
  rw [Bool.and_eq_true, Bool.and_eq_true, Bool.and_eq_true, slots, jobs, drains, requests, MemoryArbiter.inReset_iff, not_or, not_or,
    not_or, not_or, not_or, and_assoc, and_assoc]

section
variable {s : State} {d : Bool} (long : s.mp.long = some (.resetEngine d))
include long

theorem endReset_waits (h : s.resetWaits) : endReset s = s := by
  rw [endReset, long]
  exact if_neg fun ended => (resetPartsEnded_iff s).mp ended h

theorem endReset_ends (h : ¬ s.resetWaits) : endReset s = finishCommand (if d then .donePartial else .doneOk) s := by
  rw [endReset, long]
  exact if_pos ((resetPartsEnded_iff s).mpr h)
end

/-! ## The acceptance (R186) -/

/-- `s` with RESET ENGINE handed over, what it waits for marked, and every region in service DRAINING. -/
def State.resetAccepted (s : State) : State := drainRegions (markReset (s.started 0x19 (.resetEngine false)))

section
variable (s : State)

theorem resetAccepted_slot (i : SlotId) :
    s.resetAccepted.slot i = { s.slot i with inReset := (s.slot i).state != .free } := vget_map ..

theorem resetAccepted_region (r : RegionId) :
    s.resetAccepted.region r = if (s.region r).state.drainable then (s.region r).beginDrain else s.region r := vget_map ..

theorem resetAccepted_definition (r : RegionId) : (s.resetAccepted.region r).definition = (s.region r).definition := by
  rw [resetAccepted_region]
  split
  · next drainable => exact Region.beginDrain_definition _ (RegionState.ne_empty_of_drainable drainable)
  · rfl

/-- A region that drains once the command is accepted was in service or draining before. -/
theorem ne_of_resetAccepted_draining {r : RegionId} (draining : (s.resetAccepted.region r).state = .draining) :
    (s.region r).state ≠ .empty ∧ (s.region r).state ≠ .configured := by
  rw [resetAccepted_region] at draining
  constructor <;> intro other <;> rw [other, if_neg nofun, other] at draining <;> cases draining

/-- The acceptance, field by field. -/
theorem resetAccepted_eq : s.resetAccepted = { s.started 0x19 (.resetEngine false) with
    tu := { s.tu with slots := s.tu.slots.map fun sl => { sl with inReset := sl.state != .free } }
    ru := { s.ru with regions := s.ru.regions.map fun g =>
      if g.state = .online ∨ g.state = .formatting ∨ g.state = .faulted then
        { g with state := .draining, drainPhase := some .closing, drainFlushed := false, drainDiscards := 0 }
      else g }
    ma := { s.ma with
      tagQueue := s.ma.tagQueue.map fun q => { q with inReset := true }
      workQueue := s.ma.workQueue.map fun q => { q with inReset := true }
      sweepQueue := s.ma.sweepQueue.map fun q => { q with inReset := true }
      tags := s.ma.tags.map fun t =>
        { t with request := t.request.map fun q => { q with inReset := t.state == .inFlight } } } } := by
  have drained : (fun g : Region => if g.state.drainable then g.beginDrain else g) = fun g =>
      if g.state = .online ∨ g.state = .formatting ∨ g.state = .faulted then
        { g with state := .draining, drainPhase := some .closing, drainFlushed := false, drainDiscards := 0 }
      else g := funext fun g => if_congr (RegionState.drainable_iff _) rfl rfl
  rw [← drained]
  rfl

variable {s} (ready : s.takesCommand)
include ready

theorem exec_resetEngine_accepted :
    exec .resetEngine s = .next (run (checkDrains (abandonAll (cancelJobs (fun _ => true) s.resetAccepted)))) :=
  exec_resetEngine s ready

/-- What RESET ENGINE keeps: its acceptance keeps it, and so does the cascade. -/
theorem exec_resetEngine_keeps : ∃ t : State, exec .resetEngine s = .next t ∧
    (∀ r, (t.region r).sameDefinition (s.region r)) ∧
    t.ru.requesterMap = s.ru.requesterMap ∧ t.ru.unmapped = s.ru.unmapped ∧ t.su.pacing = s.su.pacing ∧
    t.su.nextId = s.su.nextId ∧ t.ma.timeout = s.ma.timeout ∧ t.ma.share = s.ma.share ∧
    t.ma.shareCounter = s.ma.shareCounter ∧ t.el.logMask = s.el.logMask ∧ t.el.alertMask = s.el.alertMask ∧
    t.mp.params = s.mp.params ∧ t.mp.results = s.mp.results ∧ t.mp.overrun = s.mp.overrun ∧ t.pins = s.pins := by
  have m : Moves s.resetAccepted (cmdResetEngine (handOver 0x19 s.acked)) :=
    moves_cmdResetEngine (handOver 0x19 s.acked)
  obtain ⟨requesters, unmapped, -⟩ := m.ru
  obtain ⟨logMask, alertMask⟩ := m.masks
  obtain ⟨-, pacing, nextId⟩ := m.su
  obtain ⟨timeout, share, counter⟩ := m.arbiter
  obtain ⟨⟨-, -, -, overrun, params, results, -⟩, -⟩ := m.mp
  exact ⟨_, exec_resetEngine s ready,
    fun r => Region.sameDefinition_of_definition ((m.definition r).trans (resetAccepted_definition s r)), requesters, unmapped, pacing,
    nextId, timeout, share, counter, logMask, alertMask, params, results, overrun, m.pins⟩
end

/-! ## An idle part (R186) -/

/-- A part without work: every slot FREE, no job, no request, every region EMPTY or CONFIGURED. -/
structure State.IdlePart (s : State) : Prop where
  tu : s.tu = .powerOn
  jobs : s.su.jobs = []
  tagQueue : s.ma.tagQueue = []
  workQueue : s.ma.workQueue = []
  sweepQueue : s.ma.sweepQueue = []
  tags : ∀ t, s.downTag t = DownTag.powerOn
  regions : ∀ r, (s.region r).state = .empty ∨ (s.region r).state = .configured

namespace State.IdlePart
variable {s : State} (idle : s.IdlePart)
include idle

theorem slot (i : SlotId) : s.slot i = .powerOn := by
  rw [State.slot, idle.tu]
  exact vget_replicate _ i

theorem not_draining (r : RegionId) : (s.region r).state ≠ .draining := by
  obtain h | h := idle.regions r <;> simp [h]

theorem not_drainable (r : RegionId) : ¬ (s.region r).state.drainable = true := by
  obtain h | h := idle.regions r <;> simp [h, RegionState.drainable]

/-- At its acceptance there is nothing to mark and nothing to drain. -/
theorem resetAccepted : s.resetAccepted = s.started 0x19 (.resetEngine false) := by
  have slots : (s.tu.slots.map fun sl => { sl with inReset := sl.state != .free }) = s.tu.slots :=
    vector_ext_vget fun i => by
      rw [vget_map, ← State.slot, idle.slot i]
      rfl
  have regions : (s.ru.regions.map fun g => if g.state.drainable then g.beginDrain else g) = s.ru.regions :=
    vector_ext_vget fun r => by
      rw [vget_map, ← State.region, if_neg (idle.not_drainable r)]
  have tags : (s.ma.tags.map fun t =>
      { t with request := t.request.map fun q => { q with inReset := t.state == .inFlight } }) = s.ma.tags :=
    vector_ext_vget fun t => by
      rw [vget_map, ← State.downTag, idle.tags t]
      rfl
  have tu : s.resetAccepted.tu = s.tu := congrArg (fun v => { s.tu with slots := v }) slots
  have ru : s.resetAccepted.ru = s.ru := congrArg (fun v => { s.ru with regions := v }) regions
  have unmarked {qs : List Request} {f : Request → Request} (empty : qs = []) : qs.map f = qs := by rw [empty]; rfl
  have ma : s.resetAccepted.ma = s.ma := Eq.mpr (MemoryArbiter.mk.injEq ..)
    ⟨tags, unmarked idle.tagQueue, unmarked idle.workQueue, unmarked idle.sweepQueue, rfl, rfl, rfl⟩
  have parts : s.resetAccepted = { s.started 0x19 (.resetEngine false) with
    tu := s.resetAccepted.tu, ru := s.resetAccepted.ru, ma := s.resetAccepted.ma } := rfl
  rw [parts, tu, ru, ma]
  rfl

/-- With nothing marked and nothing draining the command has nothing to wait for. -/
theorem not_resetWaits (code : Byte) (long : LongCommand) : ¬ (s.started code long).resetWaits := by
  rintro (⟨i, marked⟩ | jobs | ⟨r, draining⟩ | ⟨q, queued, -⟩ | ⟨t, q, inFlight, -⟩)
  · rw [show (s.started code long).slot i = .powerOn from idle.slot i] at marked
    cases marked
  · exact jobs idle.jobs
  · exact idle.not_draining r draining
  · rw [show (s.started code long).ma = s.ma from rfl, idle.tagQueue, idle.workQueue, idle.sweepQueue] at queued
    cases queued
  · rw [show (s.started code long).downTag t = .powerOn from idle.tags t] at inFlight
    cases inFlight

/-- On an idle part the command ends at once. -/
theorem exec_resetEngine (ready : s.takesCommand) (work : s.work = []) : exec .resetEngine s = .next (s.ended .doneOk) := by
  have free (i : SlotId) : ((s.started 0x19 (.resetEngine false)).slot i).state = .free := congrArg Slot.state (idle.slot i)
  have noDrain : drainingRegions (s.started 0x19 (.resetEngine false)) = [] :=
    List.filter_eq_nil_iff.mpr fun r _ => mt beq_iff_eq.mp (idle.not_draining r)
  have undrained : checkDrains (s.started 0x19 (.resetEngine false)) = s.started 0x19 (.resetEngine false) := by
    rw [checkDrains, noDrain]
    show (s.started 0x19 (.resetEngine false)).withWork (s.work ++ []) = _
    rw [List.append_nil]
    rfl
  rw [exec_resetEngine_accepted ready, idle.resetAccepted, cancelJobs_none _ (s.started 0x19 (.resetEngine false)) idle.jobs,
    abandonAll_of_free free, undrained, run_nil _ (by exact work), endReset_ends rfl (idle.not_resetWaits _ _)]
  rfl

end State.IdlePart

/-! ## Every job cancelled (R129) -/

/-- Queued jobs cancelled at one event leave their records. -/
theorem cancelFold_queued {js : List Job} (queued : ∀ j ∈ js, j.state = .queued) (kept : List Job) (s : State) :
    js.foldl (cancelStep fun _ => true) (kept, s) =
      (kept, s.withEl (js.foldl (fun e j => e.offer (jobRecord .sweepCancelled j none)) s.el)) := by
  induction js generalizing s with
  | nil => rfl
  | cons j js ih =>
    have step : cancelStep (fun _ => true) (kept, s) j = (kept, offer (jobRecord .sweepCancelled j none) s) := by
      rw [cancelStep, cancelJob_queued (queued j List.mem_cons_self)]
      rfl
    rw [List.foldl_cons, step, ih fun i hi => queued i (List.mem_cons_of_mem _ hi)]
    rfl

/-- All jobs cancelled, where at most the head works a block and the others are queued: the head is asked to stop. -/
theorem cancelJobs_all {s : State} {front back : List Job} (jobs : s.su.jobs = front ++ back)
    (head : front = [] ∨ ∃ j, front = [j] ∧ j.state = .running ∧ j.step = .working) (queued : ∀ j ∈ back, j.state = .queued) :
    cancelJobs (fun _ => true) s = { s with
      su := { s.su with jobs := front.map fun j => { j with cancelRequested := true } }
      el := back.foldl (fun e j => e.offer (jobRecord .sweepCancelled j none)) s.el } := by
  obtain rfl | ⟨j, rfl, running, working⟩ := head
  · have fold := cancelFold_queued queued [] s
    rw [cancelJobs, jobs, List.nil_append, fold, startNext_nil rfl]
    rfl
  · have step : cancelStep (fun _ => true) ([], s) j = ([{ j with cancelRequested := true }], s) := by
      rw [cancelStep, cancelJob_working running working]
      rfl
    have fold := cancelFold_queued queued [{ j with cancelRequested := true }] s
    have started : j.state ≠ .queued := by rw [running]; exact nofun
    rw [cancelJobs, jobs, List.singleton_append, List.foldl_cons, step, fold,
      startNext_started (j := { j with cancelRequested := true }) rfl started]
    rfl

/-! ## The acceptance where no operation is released and no drain moves on -/

section
variable {s : State} {front back : List Job}

/-- `s` with RESET ENGINE accepted and its jobs cancelled, those of `front` asked to stop and those of `back` ended. -/
def State.resetCancelled (s : State) (front back : List Job) : State :=
  { s.resetAccepted with
    su := { s.su with jobs := front.map fun j => { j with cancelRequested := true } }
    el := back.foldl (fun e j => e.offer (jobRecord .sweepCancelled j none)) s.el }

theorem resetCancelled_slot (i : SlotId) :
    (s.resetCancelled front back).slot i = { s.slot i with inReset := (s.slot i).state != .free } := resetAccepted_slot s i

/-- An operation that holds its blocks, and is committed or has a read outstanding, runs on when it is abandoned (R57). -/
theorem resetCancelled_runsOn {i : SlotId} (going : (s.slot i).state = .active →
    (∃ r, (s.slot i).region = some r ∧
      ∀ p ∈ (s.slot i).parts, ∃ e, s.obt.entry r p.block = some e ∧ ∃ h ∈ e.holders, h.1 = .slot i) ∧
    ((s.slot i).committed = true ∨ ∃ p ∈ (s.slot i).parts, p.readsOut ≠ 0)) : (s.resetCancelled front back).RunsOn i := by
  have slot := resetCancelled_slot (s := s) (front := front) (back := back) i
  intro active
  rw [slot] at active
  obtain ⟨⟨r, region, holding⟩, stays⟩ := going active
  have holds : holdsAll (s.resetCancelled front back) i = true :=
    holdsAll_of_holding (r := r) (by rw [slot]; exact region) (by rw [slot]; exact holding)
  refine ⟨holds, ?_⟩
  rw [slot]
  exact stays.imp id fun ⟨p, hp, reads⟩ zero => reads ((Slot.readsOut_eq_zero_iff _).mp zero p hp)

/-- Every slot abandoned at the acceptance, none released. -/
theorem abandonAll_resetCancelled (runsOn : ∀ i, (s.resetCancelled front back).RunsOn i) :
    abandonAll (s.resetCancelled front back) = (s.resetCancelled front back).withSlotQueues
      (s.resetAccepted.tu.slots.map Slot.abandonedForm) (s.tu.responses.filter fun i => (s.slot i).state != .responding)
      (s.obt.admission.filter fun i => (s.slot i).state != .admitting)
      (s.obt.bufferWait.filter fun w => (s.slot w.1).state != .active || (s.slot w.1).committed) := by
  have bufferWait : (fun w : SlotId × Nat => !(s.resetCancelled front back).leavesBufferWait w.1) =
      fun w => (s.slot w.1).state != .active || (s.slot w.1).committed := funext fun w => by
    rw [State.leavesBufferWait, resetCancelled_slot, Bool.not_and, Bool.not_not]
    rfl
  have responses : (fun i => !(s.resetCancelled front back).leavesResponses i) = fun i => (s.slot i).state != .responding :=
    funext fun i => by
      rw [State.leavesResponses, resetCancelled_slot]
      rfl
  have admission : (fun i => !(s.resetCancelled front back).leavesAdmission i) = fun i => (s.slot i).state != .admitting :=
    funext fun i => by
      rw [State.leavesAdmission, resetCancelled_slot]
      rfl
  rw [abandonAll_runsOn _ runsOn, responses, admission, bufferWait]
  rfl
end

/-! ## RESET ENGINE (R186) -/

/-- The acceptance in full, where every ACTIVE operation runs on and every region that drains has an entry. -/
theorem exec_resetEngine_runsOn {s : State} (ready : s.takesCommand) (work : s.work = []) {front back : List Job}
    (jobs : s.su.jobs = front ++ back)
    (head : front = [] ∨ ∃ j, front = [j] ∧ j.state = .running ∧ j.step = .working) (queued : ∀ j ∈ back, j.state = .queued)
    (occupied : ∀ r, (s.region r).state ≠ .empty → (s.region r).state ≠ .configured → ∃ e ∈ s.obt.entries, e.region = r)
    (runsOn : ∀ i, (s.resetCancelled front back).RunsOn i) :
    exec .resetEngine s = .next (endReset (abandonAll (s.resetCancelled front back))) := by
  have cancelled : cancelJobs (fun _ => true) s.resetAccepted = s.resetCancelled front back :=
    cancelJobs_all (s := s.resetAccepted) jobs head queued
  rw [exec_resetEngine_accepted ready, cancelled, abandonAll_resetCancelled runsOn]
  refine congrArg _ (checkDrains_waiting _ (by exact work) fun r draining => ?_)
  obtain ⟨notEmpty, notConfigured⟩ := ne_of_resetAccepted_draining s draining
  obtain ⟨e, mem, region⟩ := occupied r notEmpty notConfigured
  exact Nat.ne_of_gt (List.countP_pos_iff.mpr ⟨e, mem, by simp [region]⟩)

/-- The acceptance with no job and one slot not FREE, which is ACTIVE: that slot alone is abandoned. -/
theorem exec_resetEngine_lone {s : State} (ready : s.takesCommand) (jobs : s.su.jobs = []) {i : SlotId}
    (active : (s.slot i).state = .active) (others : ∀ j, j ≠ i → (s.slot j).state = .free) :
    exec .resetEngine s = .next (run (checkDrains (abandonActive i s.resetAccepted))) := by
  have lone : abandonAll s.resetAccepted = abandonActive i s.resetAccepted :=
    abandonAll_lone (by rw [resetAccepted_slot]; exact active) fun j hj => by rw [resetAccepted_slot]; exact others j hj
  rw [exec_resetEngine_accepted ready, cancelJobs_none _ s.resetAccepted jobs, lone]

/-- Settles O51: what the command keeps, the idle part, the end by what it waits for, and the acceptance in general, with no operation
released, and with one slot ACTIVE. -/
theorem resetEngineKeepsTheSettings : Obligations.ResetEngineKeepsTheSettings := by
  refine ⟨fun s => exec_resetEngine_keeps, fun s ready work tu jobs tagQueue workQueue sweepQueue tags regions => ?_,
    fun s d long => ⟨fun slots jobs drains queued inFlight => ?_, endReset_waits long⟩, fun s A ready hA => ?_⟩
  · exact State.IdlePart.exec_resetEngine ⟨tu, jobs, tagQueue, workQueue, sweepQueue, tags, regions⟩ ready work
  · refine endReset_ends long ?_
    rintro (⟨i, marked⟩ | waiting | ⟨r, draining⟩ | ⟨q, mem, marked⟩ | ⟨t, q, flying, request, marked⟩)
    · simp [slots i] at marked
    · exact waiting jobs
    · exact drains r draining
    · simp [queued q mem] at marked
    · simp [inFlight t q flying request] at marked
  obtain rfl : A = s.resetAccepted := hA.trans (resetAccepted_eq s).symm
  refine ⟨exec_resetEngine_accepted ready, fun u => rfl, fun front back work jobs head queued occupied _ going => ?_,
    fun i r sl hsl jobs active region others => ?_⟩
  · have runsOn (i : SlotId) := resetCancelled_runsOn (front := front) (back := back) (going i)
    rw [exec_resetEngine_runsOn ready work jobs head queued occupied runsOn, abandonAll_resetCancelled runsOn]
    rfl
  · have slot : s.resetAccepted.slot i = { s.slot i with inReset := true } := by
      rw [resetAccepted_slot, active]
      rfl
    have named : (s.resetAccepted.slot i).region = some r := by rw [slot]; exact region
    rw [exec_resetEngine_lone ready jobs active others]
    refine ⟨fun waits => ?_, fun holding uncommitted noReads => ?_⟩
    · rw [abandonActive_waiting (not_holdsAll_of_waiting named (by rw [slot]; exact waits))]
      rfl
    · have holds : holdsAll s.resetAccepted i = true := holdsAll_of_holding named (by rw [slot]; exact holding)
      have idle : (s.slot i).readsOut = 0 := (Slot.readsOut_eq_zero_iff _).mpr noReads
      rw [abandonActive_releases holds (by rw [slot]; exact uncommitted) (by rw [slot]; exact idle), hsl, markAbandoned, State.updSlot,
        slot]
      rfl

end Sys2Proof.Machine
end

section
/-! PROOFS. The two equations of a step, one for each form of the queue of commands. -/

namespace Sys2Proof.Machine

/-- The part takes the front command off the queue before running it. -/
theorem step_of_pending_cons {c : Instr} {rest : List Instr} {s : State} (queue : s.pending = c :: rest) :
    step s = exec c (s.withPending rest) := by
  rw [step, queue]

/-- With no command waiting the part idles (log entry 1). -/
theorem step_of_pending_nil {s : State} (queue : s.pending = []) : step s = .next s := by
  rw [step, queue]

/-- Settles O1: the equations of a step for a queue with a front command and for an empty queue. -/
theorem stepRunsTheFrontCommand : Obligations.StepRunsTheFrontCommand :=
  ⟨fun _ _ _ => step_of_pending_cons, fun _ => step_of_pending_nil⟩

end Sys2Proof.Machine
end

section
/-! PROOFS. The parts of a slot taken together: those a condition names, the requests each makes (R64), and the report of a part that
fails its check (R62, R77). -/

namespace Sys2Proof.Machine

/-! ## The parts of a slot by their indices -/

theorem any_phase_iff {ps : List Part} {ph : Phase} : ps.any (·.phase == ph) = true ↔ ∃ p ∈ ps, p.phase = ph := by
  simp only [List.any_eq_true, beq_iff_eq]

theorem all_phase_iff {ps : List Part} {ph : Phase} : ps.all (·.phase == ph) = true ↔ ∀ p ∈ ps, p.phase = ph := by
  simp only [List.all_eq_true, beq_iff_eq]

/-- The indices of the parts that meet a test, in ascending order. -/
theorem Slot.partsWith_eq (sl : Slot) (test : Part → Bool) :
    sl.partsWith test = (List.range sl.parts.length).filter fun k => sl.parts[k]?.any test := by
  have indices : List.range sl.parts.length = sl.parts.zipIdx.map Prod.snd := by
    rw [List.zipIdx_map_snd, List.range_eq_range']
  rw [Slot.partsWith, Slot.indexed, indices, List.filter_map]
  refine congrArg (List.map Prod.snd) (List.filter_congr fun x hx => ?_)
  rw [Function.comp_apply, List.mem_zipIdx_iff_getElem?.mp hx, Option.any_some]

/-- A list made part by part. -/
theorem Slot.indexed_map_get {α : Type} {sl : Slot} {k : Nat} {p : Part} (part : sl.parts[k]? = some p) (f : Part × Nat → α) :
    (sl.indexed.map f)[k]? = some (f (p, k)) := by
  rw [Slot.indexed, List.getElem?_map, List.getElem?_zipIdx, part, Option.map_some, Option.map_some, Nat.zero_add]

theorem Slot.indexed_map_length {α : Type} (sl : Slot) (f : Part × Nat → α) : (sl.indexed.map f).length = sl.parts.length := by
  rw [List.length_map, Slot.indexed, List.length_zipIdx]

/-- The requests of the elements a test names, as one list for each element. -/
theorem flatMap_filter_eq_flatten {α β : Type} (test : α → Bool) (f : α → List β) (l : List α) :
    (l.filter test).flatMap f = (l.map fun x => if test x then f x else []).flatten := by
  induction l with
  | nil => rfl
  | cons a l ih =>
    rw [List.map_cons, List.flatten_cons, ← ih, List.filter_cons]
    split <;> rfl

/-! ## The requests of a part (Table 10-2, R64) -/

theorem partKey_eq {sl : Slot} {r : RegionId} (region : sl.region = some r) (p : Part) :
    partKey sl p = ⟨some r, some p.block, some (sl.requester, sl.tid), none⟩ := by
  rw [partKey, region]
  rfl

theorem blockReads_work {g : Region} {block : Nat} {issuer : Nat → Issuer} {key : RecordKey} {q : Request}
    (h : q ∈ blockReads g block .work issuer key) : q.cls = .work := by
  obtain ⟨k, -, rfl⟩ := List.mem_map.mp h
  rfl

/-! ## A part's integrity failure reported (R62, R77) -/

theorem Slot.captured_eq {sl : Slot} {e : Epoch} (epoch : sl.epoch = some e) : sl.captured = e := by
  rw [Slot.captured, epoch]
  rfl

theorem withPart_slotRegion {s : State} {i : SlotId} {r : RegionId} (region : (s.slot i).region = some r) (k : Nat) (x : Part) :
    (s.withPart i k x).slotRegion i = s.region r :=
  slotRegion_eq (s := s.withPart i k x) (by rw [withPart_slot]; exact region)

section
variable {s : State} {i : SlotId} {r : RegionId} {e : Epoch} (k block : Nat) (x : Part) {v : Verdict} (t : Tag) (bytes : List Byte)

theorem reportRead_none (passed : v.isFailure = false) : reportRead i block v t bytes s = s :=
  if_neg (Bool.eq_false_iff.mp passed)

theorem reportWrite_none (passed : v.isFailure = false) : reportWrite i block v t bytes s = s :=
  if_neg (Bool.eq_false_iff.mp passed)

variable (region : (s.slot i).region = some r) (epoch : (s.slot i).epoch = some e) (failure : v.isFailure = true)
include region epoch failure

/-- A read reports a part's failure under the verdict's kind, and to the region's health. -/
theorem reportRead_withPart :
    reportRead i block v t bytes (s.withPart i k x) =
      healthReport .transaction r block (some ((s.slot i).requester, (s.slot i).tid)) { s.withPart i k x with
        el := s.el.offer { Record.plain v.recordKind .transaction with
          region := some r, block := some block, who := some ((s.slot i).requester, (s.slot i).tid)
          expectedGuard := guardFor v bytes
          tags := some ⟨t, e, BitVec.ofNat 16 (block + (s.region r).seed.toNat), (s.region r).label⟩ } } := by
  rw [reportRead, if_pos failure, withPart_slotRegion region, withPart_slot, tagReport_eq, Slot.regionId_eq (by exact region),
    Slot.captured_eq (by exact epoch)]
  rfl

/-- A write reports a part's failure as MERGE_REFUSED with the verdict's kind underlying, and to the region's health. -/
theorem reportWrite_withPart :
    reportWrite i block v t bytes (s.withPart i k x) =
      healthReport .transaction r block (some ((s.slot i).requester, (s.slot i).tid)) { s.withPart i k x with
        el := s.el.offer { Record.plain .mergeRefused .transaction with
          region := some r, block := some block, who := some ((s.slot i).requester, (s.slot i).tid)
          underlying := some v.recordKind, expectedGuard := guardFor v bytes
          tags := some ⟨t, e, BitVec.ofNat 16 (block + (s.region r).seed.toNat), (s.region r).label⟩ } } := by
  rw [reportWrite, if_pos failure, withPart_slotRegion region, withPart_slot, tagReport_eq, Slot.regionId_eq (by exact region),
    Slot.captured_eq (by exact epoch)]
  rfl
end

end Sys2Proof.Machine
end

section
/-! PROOFS. A part handed its tag (R60 to R64, R75 to R78): its judgement, the end of LOOKUP, the buffers asked for (R52), and the
reads issued. -/

namespace Sys2Proof.Machine

/-! ## A part judged by its tag (R61, R76) -/

section
variable (p : Part) {v : Verdict} (t : Tag)

/-- The verdicts by which a tag fails its evaluation (R26, R27). -/
theorem Verdict.isFailure_of_tag (h : v = .stale ∨ v = .misplaced ∨ v = .foreign) : v.isFailure = true := by
  obtain rfl | rfl | rfl := h <;> rfl

theorem judgedRead_passed (a : ReadAction) :
    (p.judgedRead a .sound t).phase = .ready ∧ (p.judgedRead a .sound t).outcome = p.outcome ∧
      (p.judgedRead a .blank t).phase = .done ∧ (p.judgedRead a .blank t).outcome = p.outcome := by
  cases a <;> exact ⟨rfl, rfl, rfl, rfl⟩

theorem judgedRead_failed (failure : v.isFailure = true) :
    p.judgedRead .fail v t = { p with verdict := some v, tag := some t, phase := .done, outcome := .checkFail } ∧
      p.judgedRead .poison v t = { p with verdict := some v, tag := some t, phase := .ready, poison := true } ∧
      p.judgedRead .report v t = { p with verdict := some v, tag := some t, phase := .ready } := by
  cases v with
  | sound => cases failure
  | blank => cases failure
  | stale => exact ⟨rfl, rfl, rfl⟩
  | misplaced => exact ⟨rfl, rfl, rfl⟩
  | foreign => exact ⟨rfl, rfl, rfl⟩
  | corrupt => exact ⟨rfl, rfl, rfl⟩

theorem judgedWrite_failed (failure : v.isFailure = true) (m : MergeMode) :
    p.judgedWrite m v t = { p with verdict := some v, tag := some t, outcome := .checkFail, phase := .refused } := by
  cases v with
  | sound => cases failure
  | blank => cases failure
  | stale => rfl
  | misplaced => rfl
  | foreign => rfl
  | corrupt => rfl

variable {p}

theorem judgedWrite_empty (noByte : p.span = none) (passed : v = .blank ∨ v = .sound) (m : MergeMode) :
    p.judgedWrite m v t = { p with verdict := some v, tag := some t, path := some .empty, phase := .checked } := by
  unfold Part.judgedWrite
  rw [noByte]
  obtain rfl | rfl := passed <;> rfl

theorem judgedWrite_blank {sp : Nat × Nat} (span : p.span = some sp) (m : MergeMode) :
    p.judgedWrite m .blank t = { p with verdict := some .blank, tag := some t, path := some .blankFill, phase := .ready } := by
  unfold Part.judgedWrite
  rw [span]

theorem judgedWrite_verify {sp : Nat × Nat} (span : p.span = some sp) :
    p.judgedWrite .verify .sound t = { p with verdict := some .sound, tag := some t, path := some .verify, phase := .ready } := by
  unfold Part.judgedWrite
  rw [span]

theorem judgedWrite_delta {sp : Nat × Nat} (span : p.span = some sp) :
    p.judgedWrite .delta .sound t = { p with verdict := some .sound, tag := some t, path := some .delta, phase := .ready } := by
  unfold Part.judgedWrite
  rw [span]
end

/-! ## A tag or a fill failure reaches a part (R60, R75) -/

/-- The record kind of a tag's failure; no guard is expected. -/
theorem tagFailure_record {v : Verdict} {kd : RecordKind}
    (h : (v = .stale ∧ kd = .stale) ∨ (v = .misplaced ∧ kd = .misplaced) ∨ (v = .foreign ∧ kd = .foreign)) :
    v.isFailure = true ∧ v.recordKind = kd ∧ guardFor v [] = none := by
  obtain ⟨rfl, rfl⟩ | ⟨rfl, rfl⟩ | ⟨rfl, rfl⟩ := h <;> exact ⟨rfl, rfl, rfl⟩

section
variable {s : State} {i : SlotId} {k : Nat} {p : Part} (part : (s.slot i).parts[k]? = some p) (t : Tag)
include part

/-- An abandoned slot, and a part past LOOKUP, take neither. -/
theorem runTask_part_ignored (past : (s.slot i).abandoned = true ∨ p.phase ≠ .lookup) :
    runTask (.handTag (.slot i) k t) s = s ∧ runTask (.fillFailed (.slot i) k) s = s := by
  have found : s.part i k = some p := part
  have handed : partHanded i k t s = s := by
    unfold partHanded
    rw [found]
    exact if_pos past
  have failed : partFillFailed i k s = s := by
    unfold partFillFailed
    rw [found]
    exact if_pos past
  exact ⟨handed, failed⟩

section
variable (here : (s.slot i).abandoned = false) (lookup : p.phase = .lookup)
include here lookup

theorem runTask_fillFailed_read (read : (s.slot i).kind = .read) :
    runTask (.fillFailed (.slot i) k) s = readLookedUp i (s.withPart i k { p with phase := .done, outcome := .memoryFault }) := by
  have found : s.part i k = some p := part
  have failed : partFillFailed i k s = readFillFailed i k s := by
    unfold partFillFailed
    rw [found, read]
    exact if_neg (by simp [here, lookup])
  rw [← updPart_eq part fun p => { p with phase := .done, outcome := .memoryFault }]
  exact failed

theorem runTask_fillFailed_write (write : (s.slot i).kind = .write) :
    runTask (.fillFailed (.slot i) k) s = writeLookedUp i (s.withPart i k { p with phase := .refused, outcome := .memoryFault }) := by
  have found : s.part i k = some p := part
  have failed : partFillFailed i k s = writeFillFailed i k s := by
    unfold partFillFailed
    rw [found, write]
    exact if_neg (by simp [here, lookup])
  rw [← updPart_eq part fun p => { p with phase := .refused, outcome := .memoryFault }]
  exact failed

variable {r : RegionId} {e : Epoch} {v : Verdict} (region : (s.slot i).region = some r) (epoch : (s.slot i).epoch = some e)
  (verdict : v = tagEvaluation (s.region r) e p.block t)
include region epoch verdict

/-- A read part is judged, and its failure reported. -/
theorem runTask_handTag_read (read : (s.slot i).kind = .read) :
    runTask (.handTag (.slot i) k t) s = readLookedUp i (reportRead i p.block v t []
      (s.withPart i k (p.judgedRead (s.region r).readAction v t))) := by
  have found : s.part i k = some p := part
  have handed : partHanded i k t s = readHanded i k p t s := by
    unfold partHanded
    rw [found, read]
    exact if_neg (by simp [here, lookup])
  refine handed.trans ?_
  rw [readHanded, updPart_eq part, slotRegion_eq region, Slot.captured_eq epoch, ← verdict]

/-- A write part is judged, and its failure reported. -/
theorem runTask_handTag_write (write : (s.slot i).kind = .write) :
    runTask (.handTag (.slot i) k t) s = writeLookedUp i (reportWrite i p.block v t []
      (s.withPart i k (p.judgedWrite (s.region r).mergeMode v t))) := by
  have found : s.part i k = some p := part
  have handed : partHanded i k t s = writeHanded i k p t s := by
    unfold partHanded
    rw [found, write]
    exact if_neg (by simp [here, lookup])
  refine handed.trans ?_
  rw [writeHanded, updPart_eq part, slotRegion_eq region, Slot.captured_eq epoch, ← verdict]
end
end

/-! ## The end of LOOKUP (R63, R78) -/

section
variable {s : State} {i : SlotId}

theorem readLookedUp_waits (h : ∃ p ∈ (s.slot i).parts, p.phase = .lookup) : readLookedUp i s = s :=
  if_pos (any_phase_iff.mpr h)

theorem readLookedUp_asks (h : ∀ p ∈ (s.slot i).parts, p.phase ≠ .lookup) :
    readLookedUp i s = askBuffers i (issueReads i) s :=
  if_neg fun some => let ⟨p, hp, lookup⟩ := any_phase_iff.mp some; h p hp lookup

theorem writeLookedUp_waits (h : ∃ p ∈ (s.slot i).parts, p.phase = .lookup) : writeLookedUp i s = s :=
  if_pos (any_phase_iff.mpr h)

theorem writeLookedUp_decides (h : ∀ p ∈ (s.slot i).parts, p.phase ≠ .lookup) (refused : ∃ p ∈ (s.slot i).parts, p.phase = .refused) :
    writeLookedUp i s = decideWrite i s :=
  (if_neg fun some => let ⟨p, hp, lookup⟩ := any_phase_iff.mp some; h p hp lookup).trans (if_pos (any_phase_iff.mpr refused))

theorem writeLookedUp_asks (h : ∀ p ∈ (s.slot i).parts, p.phase ≠ .lookup) (sound : ∀ p ∈ (s.slot i).parts, p.phase ≠ .refused) :
    writeLookedUp i s = askBuffers i (proceedWrite i) s :=
  (if_neg fun some => let ⟨p, hp, lookup⟩ := any_phase_iff.mp some; h p hp lookup).trans
    (if_neg fun some => let ⟨p, hp, refused⟩ := any_phase_iff.mp some; sound p hp refused)

/-! ## The buffers asked for (R52) -/

theorem needsBuffer_read_iff (g : Region) (p : Part) :
    p.needsBuffer g .read = true ↔ p.phase = .ready ∧ g.checkSet.guard = true ∧ p.verdict = some .sound := by
  simp [Part.needsBuffer, Part.needsBlock, and_assoc]

theorem needsBuffer_write_iff (g : Region) (p : Part) :
    p.needsBuffer g .write = true ↔ p.phase = .ready ∧ (p.path = some .blankFill ∨ p.path = some .verify) := by
  simp [Part.needsBuffer]

/-- The parts that need buffers, by any test that says which need one. -/
theorem bufferNeeds_eq {r : RegionId} (region : (s.slot i).region = some r) {needs : Part → Bool}
    (h : ∀ p, needs p = true ↔ p.needsBuffer (s.region r) (s.slot i).kind = true) :
    bufferNeeds s i = (List.range (s.slot i).parts.length).filter fun k => (s.slot i).parts[k]?.any needs := by
  obtain rfl : needs = Part.needsBuffer (s.region r) (s.slot i).kind := funext fun p => Bool.eq_iff_iff.mpr (h p)
  rw [bufferNeeds, Slot.partsWith_eq, slotRegion_eq region]

/-- The three answers to an operation that asks for buffers: none needed, some waited for, all assigned. -/
theorem askBuffers_cases (go : State → State) {ks : List Nat} (needed : bufferNeeds s i = ks) :
    (ks = [] → askBuffers i go s = go s) ∧
    (ks ≠ [] → s.obt.bufferWait ≠ [] ∨ s.obt.freeBuffers.length < ks.length →
      askBuffers i go s = { s with obt := { s.obt with bufferWait := s.obt.bufferWait ++ [(i, ks.length)] } }) ∧
    (ks ≠ [] → s.obt.bufferWait = [] → ks.length ≤ s.obt.freeBuffers.length →
      askBuffers i go s = go (ks.foldl (assignBuffer i) s)) := by
  unfold askBuffers assignBuffers
  rw [needed]
  refine ⟨fun none => if_pos (List.isEmpty_iff.mpr none), fun some waits => ?_, fun some first enough => ?_⟩
  · rw [if_neg (by simpa using some), if_neg]
    · rfl
    · rw [Bool.and_eq_true, List.isEmpty_iff, decide_eq_true_iff]
      rintro ⟨first, enough⟩
      exact waits.elim (fun queue => queue first) (Nat.not_lt.mpr enough)
  · rw [if_neg (by simpa using some), if_pos]
    rw [Bool.and_eq_true, List.isEmpty_iff, decide_eq_true_iff]
    exact ⟨first, enough⟩
end

/-! ## The reads issued (R63, R64, R78) -/

/-- A DATA_READ of a part of a slot: `len` bytes of its block from an offset, to be placed at `land` (Tables 10-1, 10-2). -/
def State.readOf (s : State) (i : SlotId) (r : RegionId) (k block off len land : Nat) : Request where
  kind := .dataRead
  cls := .work
  address := (s.region r).base + block * (s.region r).blockSize + off
  length := len
  data := []
  enables := []
  issuer := .part i k land
  key := ⟨some r, some block, some ((s.slot i).requester, (s.slot i).tid), none⟩
  inReset := false

/-- The DATA_READs of a part's whole block (R64). -/
def State.readsOfBlock (s : State) (i : SlotId) (r : RegionId) (k block : Nat) : List Request :=
  (List.range ((s.region r).blockSize / 256)).map fun j => s.readOf i r k block (256 * j) 256 (256 * j)

section
variable {s : State} {i : SlotId} {r : RegionId} (region : (s.slot i).region = some r) (k : Nat) (p : Part)

section
include region

theorem blockReads_part : blockReads (s.region r) p.block .work (.part i k) (partKey (s.slot i) p) = s.readsOfBlock i r k p.block := by
  rw [partKey_eq region]
  rfl

theorem readRequest_part (off len land : Nat) :
    readRequestOf .dataRead .work ((s.region r).blockAddress p.block off) len (.part i k land) (partKey (s.slot i) p) =
      s.readOf i r k p.block off len land := by
  rw [partKey_eq region]
  rfl

theorem readRequests_whole (whole : p.needsBlock (s.region r) = true) :
    readRequests (s.region r) i (s.slot i) k p = s.readsOfBlock i r k p.block :=
  (if_pos whole).trans (blockReads_part region k p)

theorem readRequests_span (own : p.needsBlock (s.region r) = false) :
    readRequests (s.region r) i (s.slot i) k p = [s.readOf i r k p.block p.offset p.count 0] :=
  (if_neg (Bool.eq_false_iff.mp own)).trans (congrArg (fun q => [q]) (readRequest_part region k p ..))

theorem mergeReads_verify (path : p.path = some .verify) :
    mergeReads (s.region r) i (s.slot i) k p = s.readsOfBlock i r k p.block := by
  unfold mergeReads
  rw [path]
  exact blockReads_part region k p

theorem mergeReads_delta {lo hi : Nat} (path : p.path = some .delta) (span : p.span = some (lo, hi)) :
    mergeReads (s.region r) i (s.slot i) k p = [s.readOf i r k p.block lo (hi - lo + 1) 0] := by
  unfold mergeReads
  rw [path, span]
  exact congrArg (fun q => [q]) (readRequest_part region k p ..)
end

theorem mergeReads_blankFill (g : Region) (sl : Slot) (path : p.path = some .blankFill) : mergeReads g i sl k p = [] := by
  unfold mergeReads
  rw [path]

theorem readRequests_work {g : Region} {sl : Slot} {q : Request} (h : q ∈ readRequests g i sl k p) : q.cls = .work := by
  unfold readRequests at h
  split at h
  · exact blockReads_work h
  · rw [List.mem_singleton.mp h]
    rfl

theorem mergeReads_work {g : Region} {sl : Slot} {q : Request} (h : q ∈ mergeReads g i sl k p) : q.cls = .work := by
  unfold mergeReads at h
  split at h
  · exact blockReads_work h
  · rw [List.mem_singleton.mp h]
    rfl
  · cases h
  · cases h
  · cases h
end

/-- The requests of each READY part, and none of the others. -/
def Slot.readyRequests (sl : Slot) (f : Part × Nat → List Request) : List (List Request) :=
  sl.indexed.map fun x => if x.1.phase == .ready then f x else []

section
variable {sl : Slot} (f : Part × Nat → List Request) {k : Nat} {p : Part}

theorem Slot.readyRequests_length : (sl.readyRequests f).length = sl.parts.length := sl.indexed_map_length _

theorem Slot.readyRequests_ready (part : sl.parts[k]? = some p) (ready : p.phase = .ready) :
    (sl.readyRequests f)[k]? = some (f (p, k)) := by
  rw [Slot.readyRequests, Slot.indexed_map_get part, if_pos (beq_iff_eq.mpr ready)]

theorem Slot.readyRequests_other (part : sl.parts[k]? = some p) (other : p.phase ≠ .ready) :
    (sl.readyRequests f)[k]? = some [] := by
  rw [Slot.readyRequests, Slot.indexed_map_get part, if_neg (mt beq_iff_eq.mp other)]

/-- A slot's parts moved on, and requests of theirs at the tail of the WORK class. -/
def State.movedParts (s : State) (i : SlotId) (move : Part → Part) (qs : List Request) : State :=
  { s with
    tu := { s.tu with slots := vset s.tu.slots i { s.slot i with parts := (s.slot i).parts.map move } }
    ma := { s.ma with workQueue := s.ma.workQueue ++ qs } }

/-- A slot whose parts move on while the READY ones' requests join the WORK class, part 1 first. -/
theorem appendRequests_ready {s : State} {i : SlotId} (move : Part → Part) (work : ∀ x, ∀ q ∈ f x, q.cls = .work) :
    appendRequests (((s.slot i).indexed.filter (·.1.phase == .ready)).flatMap f)
        (s.updSlot i fun sl => { sl with parts := sl.parts.map move }) =
      s.movedParts i move ((s.slot i).readyRequests f).flatten := by
  rw [appendRequests_work _ _ fun q hq => ?_, flatMap_filter_eq_flatten]
  · rfl
  · obtain ⟨x, -, hx⟩ := List.mem_flatMap.mp hq
    exact work x q hx
end

section
variable {s : State} {i : SlotId} {r : RegionId} (region : (s.slot i).region = some r)
include region

/-- A read goes on: its READY parts enter READING, and their reads are issued (R63). -/
theorem issueReads_eq :
    issueReads i s = endReadIfDone i (s.movedParts i (Part.issueRead (s.region r))
      ((s.slot i).readyRequests fun x => readRequests (s.region r) i (s.slot i) x.2 x.1).flatten) := by
  rw [issueReads, slotRegion_eq region, appendRequests_ready _ _ fun x q hq => readRequests_work _ _ hq]

/-- A write goes on: its READY parts are CHECKED or enter READING, and their reads are issued (R78). -/
theorem proceedWrite_eq :
    proceedWrite i s = decideWrite i (s.movedParts i (Part.proceed (s.region r))
      ((s.slot i).readyRequests fun x => mergeReads (s.region r) i (s.slot i) x.2 x.1).flatten) := by
  rw [proceedWrite, slotRegion_eq region, appendRequests_ready _ _ fun x q hq => mergeReads_work _ _ hq]
end

/-- A READY part reads its whole block by any test that says where the guard is checked. -/
theorem needsBlock_of_ready {g : Region} {whole : Part → Bool}
    (h : ∀ p, whole p = true ↔ g.checkSet.guard = true ∧ p.verdict = some .sound) {p : Part} (ready : p.phase = .ready) : p.needsBlock g = whole p := by
  rw [Bool.eq_iff_iff, h, Part.needsBlock, ready]
  simp

theorem issueRead_eq {g : Region} {whole : Part → Bool}
    (h : ∀ p, whole p = true ↔ g.checkSet.guard = true ∧ p.verdict = some .sound) (p : Part) :
    p.issueRead g = if p.phase = .ready then
        if whole p then { p with phase := .reading, mode := some .full, readsOut := g.blockSize / 256 }
        else { p with phase := .reading, mode := some .span, readsOut := 1 }
      else p := by
  by_cases ready : p.phase = .ready
  · rw [Part.issueRead, if_pos ready, if_pos ready, needsBlock_of_ready h ready]
    rfl
  · rw [Part.issueRead, if_neg ready, if_neg ready]

theorem Part.proceed_eq (g : Region) (p : Part) :
    p.proceed g = if p.phase = .ready then
        match p.path with
        | some .blankFill => { p with phase := .checked }
        | some .verify => { p with phase := .reading, readsOut := g.blockSize / 256 }
        | some .delta => { p with phase := .reading, readsOut := 1 }
        | _ => p
      else p := by
  unfold Part.proceed
  split
  · next ready path => rw [if_pos ready, path]
  · next ready path => rw [if_pos ready, path]; rfl
  · next ready path => rw [if_pos ready, path]
  · next blankFill verify delta =>
    split
    · next ready =>
      split
      · next path => exact absurd path (blankFill ready)
      · next path => exact absurd path (verify ready)
      · next path => exact absurd path (delta ready)
      · rfl
    · rfl

/-- Settles O7: the judgements, the tag or fill failure that reaches a part, the end of LOOKUP with the buffers asked for, and the
reads issued. -/
theorem tagVerdictDecidesThePart : Obligations.TagVerdictDecidesThePart := by
  refine ⟨fun p t v => ⟨judgedRead_passed p t, fun fails => ?_, fun passed noByte m => ?_, fun sp span => ⟨fun m => ?_, ?_, ?_⟩⟩,
    fun s i k p r e t part region epoch =>
      ⟨runTask_part_ignored part t, fun here lookup v y verdict => ⟨fun read => ?_, fun write => ?_⟩⟩,
    fun s i r go looked needs ks region which hks => ?_,
    fun s i r whole rd region hwhole hrd => ⟨fun k b free lowest => assignBuffer_lowest i k free lowest, ?_, ?_⟩⟩
  · obtain ⟨fail, poison, report⟩ := judgedRead_failed p t (Verdict.isFailure_of_tag fails)
    rw [fail, poison, report]
    refine ⟨⟨rfl, rfl, rfl⟩, ⟨rfl, rfl, rfl⟩, ⟨rfl, rfl, rfl⟩, fun m => ?_⟩
    rw [judgedWrite_failed p t (Verdict.isFailure_of_tag fails)]
    exact ⟨rfl, rfl⟩
  · rw [judgedWrite_empty t noByte passed]
    exact ⟨rfl, rfl⟩
  · rw [judgedWrite_blank t span]
    exact ⟨rfl, rfl⟩
  · rw [judgedWrite_verify t span]
    exact ⟨rfl, rfl⟩
  · rw [judgedWrite_delta t span]
    exact ⟨rfl, rfl⟩
  · refine ⟨runTask_fillFailed_read part here lookup read, fun hy => ⟨fun passed => ?_, fun kd fails => ?_⟩⟩
    · rw [runTask_handTag_read part t here lookup region epoch verdict read, reportRead_none, hy]
      obtain rfl | rfl := passed <;> rfl
    · obtain ⟨failure, kind, guard⟩ := tagFailure_record fails
      rw [runTask_handTag_read part t here lookup region epoch verdict read,
        reportRead_withPart k _ _ t [] region epoch failure, kind, guard, hy]
      rfl
  · refine ⟨runTask_fillFailed_write part here lookup write, fun hy => ⟨fun passed => ?_, fun kd fails => ?_⟩⟩
    · rw [runTask_handTag_write part t here lookup region epoch verdict write, reportWrite_none, hy]
      obtain rfl | rfl := passed <;> rfl
    · obtain ⟨failure, kind, guard⟩ := tagFailure_record fails
      rw [runTask_handTag_write part t here lookup region epoch verdict write,
        reportWrite_withPart k _ _ t [] region epoch failure, kind, guard, hy]
      rfl
  · obtain ⟨read, rfl, rfl, hneeds⟩ | ⟨write, rfl, rfl, hneeds⟩ := which
    · refine ⟨readLookedUp_waits, fun past => ⟨fun write => ?_, fun _ => ?_⟩⟩
      · rw [read] at write
        cases write
      · rw [readLookedUp_asks past]
        refine askBuffers_cases _ ((bufferNeeds_eq region fun p => ?_).trans hks.symm)
        rw [read, needsBuffer_read_iff]
        exact hneeds p
    · refine ⟨writeLookedUp_waits, fun past => ⟨fun _ => writeLookedUp_decides past, fun sound => ?_⟩⟩
      rw [writeLookedUp_asks past (sound write)]
      refine askBuffers_cases _ ((bufferNeeds_eq region fun p => ?_).trans hks.symm)
      rw [write, needsBuffer_write_iff]
      exact hneeds p
  · obtain rfl : rd = s.readOf i r := by
      funext k block off len land
      exact hrd k block off len land
    refine ⟨(s.slot i).readyRequests fun x => readRequests (s.region r) i (s.slot i) x.2 x.1, Slot.readyRequests_length _,
      (issueReads_eq region).trans (congrArg (fun move => endReadIfDone i (s.movedParts i move _)) (funext (issueRead_eq hwhole))),
      fun k p part =>
      ⟨Slot.readyRequests_other _ part, fun ready wholeBlock => ?_, fun ready own => ?_⟩⟩
    · rw [Slot.readyRequests_ready _ part ready,
        readRequests_whole region k p ((needsBlock_of_ready hwhole ready).trans wholeBlock)]
      rfl
    · rw [Slot.readyRequests_ready _ part ready, readRequests_span region k p ((needsBlock_of_ready hwhole ready).trans own)]
  · obtain rfl : rd = s.readOf i r := by
      funext k block off len land
      exact hrd k block off len land
    refine ⟨(s.slot i).readyRequests fun x => mergeReads (s.region r) i (s.slot i) x.2 x.1, Slot.readyRequests_length _,
      (proceedWrite_eq region).trans (congrArg (fun move => decideWrite i (s.movedParts i move _)) (funext (Part.proceed_eq _))),
      fun k p part =>
      ⟨fun none => ?_, fun ready path => ?_, fun lo hi ready path span => ?_⟩⟩
    · by_cases ready : p.phase = .ready
      · rw [Slot.readyRequests_ready _ part ready, mergeReads_blankFill k p _ _ (none.resolve_left (not_not_intro ready))]
      · exact Slot.readyRequests_other _ part ready
    · rw [Slot.readyRequests_ready _ part ready, mergeReads_verify region k p path]
      rfl
    · rw [Slot.readyRequests_ready _ part ready, mergeReads_delta region k p path span]

end Sys2Proof.Machine
end

section
/-! PROOFS. A DATA_READ of a protected part completes (R64 to R66, R79 to R81): the part's buffer, the bytes stored, the guard check,
and the reads that fail; and the end of a read (R67, R68). -/

namespace Sys2Proof.Machine

/-! ## The buffer of a part (R51, R64) -/

/-- The state with these bytes in a buffer of part `k`. -/
def State.stored (s : State) (i : SlotId) (k : Nat) (b : Fin 8) (bytes : List Byte) : State :=
  { s with obt := { s.obt with buffers := vset s.obt.buffers b ⟨some (i, k), bytes⟩ } }

section
variable {s : State} {i : SlotId} {k : Nat} {b : Fin 8}

theorem bufferBlock_eq (owner : (vget s.obt.buffers b).owner = some (i, k))
    (lowest : ∀ c, c < b → (vget s.obt.buffers c).owner ≠ some (i, k)) (B : Nat) :
    bufferBlock s i k B = (vget s.obt.buffers b).bytes.take B := by
  unfold bufferBlock
  rw [bufferOf_some owner lowest]

theorem storeInBuffer_eq (owner : (vget s.obt.buffers b).owner = some (i, k))
    (lowest : ∀ c, c < b → (vget s.obt.buffers c).owner ≠ some (i, k)) (off : Nat) (data : List Byte) :
    storeInBuffer i k off data s = s.stored i k b (overlay off data (vget s.obt.buffers b).bytes) := by
  unfold storeInBuffer
  rw [bufferOf_some owner lowest, State.stored, ← owner]
  rfl

/-- What has been stored is read back. -/
theorem bufferBlock_stored (lowest : ∀ c, c < b → (vget s.obt.buffers c).owner ≠ some (i, k)) (bytes : List Byte) (B : Nat) :
    bufferBlock (s.stored i k b bytes) i k B = bytes.take B := by
  have here : vget (s.stored i k b bytes).obt.buffers b = ⟨some (i, k), bytes⟩ := vget_vset_same ..
  have below : ∀ c, c < b → (vget (s.stored i k b bytes).obt.buffers c).owner ≠ some (i, k) := fun c hc => by
    have other : vget (s.stored i k b bytes).obt.buffers c = vget s.obt.buffers c := vget_vset_ne _ hc.ne' _
    rw [other]
    exact lowest c hc
  rw [bufferBlock_eq (by rw [here]) below, here]
end

/-! ## The response to a part's DATA_READ (R163) -/

section
variable {s : State} {i : SlotId} {k n : Nat} {p : Part} (part : (s.slot i).parts[k]? = some p)

section
variable {t : DownTagId} {q : Request} (porst : s.pins.porst = false) (inFlight : (s.downTag t).state = .inFlight)
  (request : (s.downTag t).request = some q) (issuer : q.issuer = .part i k n) (kind : q.kind = .dataRead)

section
include porst inFlight request issuer kind

/-- An OK response of the read's length hands its bytes to the part. -/
theorem exec_dataRead_ok {data : List Byte} (length : data.length = q.length) :
    exec (.downstreamResponse t true data) s = .next (run (partDone .dataRead i k n true data (s.setDownTag t .powerOn))) := by
  rw [exec_downstreamResponse_inFlight true data porst inFlight request, takeResponse_exact t q data s (by rw [kind]; rfl) length,
    complete, issuer, kind]

/-- An ERROR response hands the part no bytes. -/
theorem exec_dataRead_error (data : List Byte) :
    exec (.downstreamResponse t false data) s = .next (run (partDone .dataRead i k n false [] (s.setDownTag t .powerOn))) := by
  rw [exec_downstreamResponse_inFlight false data porst inFlight request, takeResponse_error, complete, issuer, kind]
end

section
include part

theorem partDone_read (read : (s.slot i).kind = .read) (ok : Bool) (data : List Byte) :
    partDone .dataRead i k n ok data s = readDone i k n p ok data s := by
  have found : s.part i k = some p := part
  rw [partDone, found, read]

theorem partDone_check (write : (s.slot i).kind = .write) (ok : Bool) (data : List Byte) :
    partDone .dataRead i k n ok data s = checkDone i k n p ok data s := by
  have found : s.part i k = some p := part
  rw [partDone, found, write]
end

variable (here : (s.slot i).abandoned = false)
include part porst inFlight request issuer kind here

theorem exec_readOk (read : (s.slot i).kind = .read) {data : List Byte} (length : data.length = q.length) :
    exec (.downstreamResponse t true data) s =
      .next (run (endReadIfDone i (readOk i k n p data (s.setDownTag t .powerOn)))) := by
  have goesOn : ¬ ((s.setDownTag t .powerOn).slot i).abandoned = true := Bool.eq_false_iff.mp here
  rw [exec_dataRead_ok porst inFlight request issuer kind length, partDone_read (s := s.setDownTag t .powerOn) part read, readDone,
    if_neg goesOn, if_pos rfl]

theorem exec_readError (read : (s.slot i).kind = .read) (data : List Byte) :
    exec (.downstreamResponse t false data) s = .next (run (endReadIfDone i
      ((postPartFault .memoryRead i k p (s.setDownTag t .powerOn)).updPart i k Part.readFault))) := by
  have goesOn : ¬ ((s.setDownTag t .powerOn).slot i).abandoned = true := Bool.eq_false_iff.mp here
  rw [exec_dataRead_error porst inFlight request issuer kind, partDone_read (s := s.setDownTag t .powerOn) part read, readDone,
    if_neg goesOn, if_neg nofun]

theorem exec_checkOk (write : (s.slot i).kind = .write) {data : List Byte} (length : data.length = q.length) :
    exec (.downstreamResponse t true data) s =
      .next (run (decideWrite i (checkOk i k n p data (s.setDownTag t .powerOn)))) := by
  have goesOn : ¬ ((s.setDownTag t .powerOn).slot i).abandoned = true := Bool.eq_false_iff.mp here
  rw [exec_dataRead_ok porst inFlight request issuer kind length, partDone_check (s := s.setDownTag t .powerOn) part write, checkDone,
    if_neg goesOn, if_pos rfl]

theorem exec_checkError (write : (s.slot i).kind = .write) (data : List Byte) :
    exec (.downstreamResponse t false data) s = .next (run (decideWrite i
      ((postPartFault .memoryRead i k p (s.setDownTag t .powerOn)).updPart i k Part.checkFault))) := by
  have goesOn : ¬ ((s.setDownTag t .powerOn).slot i).abandoned = true := Bool.eq_false_iff.mp here
  rw [exec_dataRead_error porst inFlight request issuer kind, partDone_check (s := s.setDownTag t .powerOn) part write, checkDone,
    if_neg goesOn, if_neg nofun]
end

/-! ## A read fails (R65, R81) -/

section
include part

/-- A part just replaced is updated. -/
theorem withPart_updPart (x : Part) (f : Part → Part) : (s.withPart i k x).updPart i k f = s.withPart i k (f x) := by
  rw [← updPart_eq part fun _ => x, updPart_updPart, updPart_eq part]
  rfl

/-- A part at fault is changed, and the fault posted once for it. -/
theorem postPartFault_updPart {r : RegionId} (region : (s.slot i).region = some r) (kd : RecordKind) {f : Part → Part}
    (keeps : ∀ x : Part, f { x with faultPosted := true } = { f x with faultPosted := true }) :
    (postPartFault kd i k p s).updPart i k f = { s.withPart i k { f p with faultPosted := true } with
      el := if p.faultPosted then s.el else s.el.offer { Record.plain kd .transaction with
        region := some r, block := some p.block, who := some ((s.slot i).requester, (s.slot i).tid) } } := by
  cases posted : p.faultPosted with
  | true =>
    have already : postPartFault kd i k p s = s := if_pos posted
    have same : { f p with faultPosted := true } = f p := by rw [← keeps, ← posted]
    rw [already, updPart_eq part, same]
    rfl
  | false =>
    have once : postPartFault kd i k p s = offer (partRecord kd r p.block (s.slot i).who)
        (s.updPart i k fun p => { p with faultPosted := true }) := by
      rw [← Slot.regionId_eq region]
      exact if_neg (by simp [posted])
    have both : (s.updPart i k fun p => { p with faultPosted := true }).updPart i k f =
        s.withPart i k { f p with faultPosted := true } := by
      rw [updPart_eq part, withPart_updPart part, keeps]
    rw [once]
    exact congrArg (offer (partRecord kd r p.block (s.slot i).who)) both

end
end

/-! ## Bytes stored, and a part's last read, by its data mode or path (R64, R66, R79, R80) -/

section
variable {s : State} {i : SlotId} {k n : Nat} {p : Part} {data : List Byte} {tg : Tag}

theorem storeRead_span (span : p.mode = some .span) : storeRead i k n p data s = s.updPart i k fun p => { p with data := data } := by
  unfold storeRead
  rw [span]

theorem storeRead_full (full : p.mode = some .full) : storeRead i k n p data s = storeInBuffer i k n data s := by
  unfold storeRead
  rw [full]

theorem finishReadPart_span (span : p.mode = some .span) :
    finishReadPart i k p s = s.updPart i k fun p => { p with phase := .done } := by
  unfold finishReadPart
  rw [span]

theorem finishReadPart_full (full : p.mode = some .full) (tag : p.tag = some tg) :
    finishReadPart i k p s = readGuardCheck i k p tg (bufferBlock s i k (s.slotRegion i).blockSize) s := by
  unfold finishReadPart
  rw [full, tag]

theorem storeCheck_delta (delta : p.path = some .delta) :
    storeCheck i k n p data s = s.updPart i k fun p => { p with oldSpan := data } := by
  unfold storeCheck
  rw [delta]

theorem storeCheck_verify (verify : p.path = some .verify) : storeCheck i k n p data s = storeInBuffer i k n data s := by
  unfold storeCheck
  rw [verify]

theorem finishCheckPart_delta (delta : p.path = some .delta) :
    finishCheckPart i k p s = s.updPart i k fun p => { p with phase := .checked } := by
  unfold finishCheckPart
  rw [delta]

theorem finishCheckPart_unguarded (guard : (s.slotRegion i).checkSet.guard = false) :
    finishCheckPart i k p s = s.updPart i k fun p => { p with phase := .checked } := by
  unfold finishCheckPart
  split
  · next guarded => exact absurd guarded (by rw [guard]; decide)
  · rfl

theorem finishCheckPart_guarded (verify : p.path = some .verify) (tag : p.tag = some tg)
    (guard : (s.slotRegion i).checkSet.guard = true) :
    finishCheckPart i k p s = verifyGuardCheck i k p tg (bufferBlock s i k (s.slotRegion i).blockSize) s := by
  unfold finishCheckPart
  rw [verify, tag, guard]

theorem dataEvaluation_sound {block : List Byte} (h : crc block = tg.guard) : dataEvaluation tg block = .sound := if_pos h

theorem dataEvaluation_corrupt {block : List Byte} (h : crc block ≠ tg.guard) : dataEvaluation tg block = .corrupt := if_neg h
end

theorem guardChecked_sound (a : ReadAction) (block : List Byte) (p : Part) :
    p.guardChecked a .sound block = { p with verdict := some .sound, phase := .done, data := slice p.offset p.count block } := by
  cases a <;> rfl

/-- A CORRUPT block is answered by the read action (R66). -/
theorem guardChecked_corrupt {a : ReadAction} {block : List Byte} {p x : Part}
    (fail : a = .fail → x = { p with verdict := some .corrupt, phase := .done, outcome := .checkFail })
    (poison : a = .poison → x = { p with
      verdict := some .corrupt, phase := .done, poison := true, data := slice p.offset p.count block })
    (report : a = .report → x = { p with verdict := some .corrupt, phase := .done, data := slice p.offset p.count block }) :
    p.guardChecked a .corrupt block = x := by
  cases a with
  | fail => exact (fail rfl).symm
  | poison => exact (poison rfl).symm
  | report => exact (report rfl).symm

/-! ## A read of a part completes OK (R64 to R66, R79 to R81) -/

section
variable {s : State} {i : SlotId} {k n : Nat} {p : Part} (part : (s.slot i).parts[k]? = some p) (data : List Byte)
include part

/-- A part updated after bytes have been stored in its buffer. -/
theorem stored_updPart (b : Fin 8) (bytes : List Byte) (f : Part → Part) :
    (s.stored i k b bytes).updPart i k f = (s.stored i k b bytes).withPart i k (f p) := updPart_eq (s := s.stored i k b bytes) part f

theorem readOk_dropped (failed : p.outcome = .memoryFault) : readOk i k n p data s = s.withPart i k p.readDropped :=
  (if_pos failed).trans (updPart_eq part _)

theorem checkOk_dropped (failed : p.outcome = .memoryFault) : checkOk i k n p data s = s.withPart i k p.checkDropped :=
  (if_pos failed).trans (updPart_eq part _)

variable (sofar : p.outcome ≠ .memoryFault)
include sofar

theorem readOk_span (span : p.mode = some .span) (last : p.readsOut = 1) :
    readOk i k n p data s = s.withPart i k { p with phase := .done, readsOut := 0, data := data } := by
  rw [readOk, if_neg sofar, if_pos last, storeRead_span span, finishReadPart_span span, updPart_eq part, withPart_updPart part,
    withPart_updPart part]

theorem checkOk_delta (delta : p.path = some .delta) (last : p.readsOut = 1) :
    checkOk i k n p data s = s.withPart i k { p with phase := .checked, readsOut := 0, oldSpan := data } := by
  rw [checkOk, if_neg sofar, if_pos last, storeCheck_delta delta, finishCheckPart_delta delta, updPart_eq part,
    withPart_updPart part, withPart_updPart part]

section
variable {b : Fin 8} {bytes : List Byte} (owner : (vget s.obt.buffers b).owner = some (i, k))
  (lowest : ∀ c, c < b → (vget s.obt.buffers c).owner ≠ some (i, k)) (hbytes : bytes = overlay n data (vget s.obt.buffers b).bytes)
include owner lowest hbytes

theorem readOk_full_more (full : p.mode = some .full) (more : p.readsOut ≠ 1) :
    readOk i k n p data s = (s.stored i k b bytes).withPart i k { p with readsOut := p.readsOut - 1 } := by
  rw [readOk, if_neg sofar, if_neg more, storeRead_full full, storeInBuffer_eq owner lowest, ← hbytes, stored_updPart part]

theorem checkOk_verify_more (verify : p.path = some .verify) (more : p.readsOut ≠ 1) :
    checkOk i k n p data s = (s.stored i k b bytes).withPart i k { p with readsOut := p.readsOut - 1 } := by
  rw [checkOk, if_neg sofar, if_neg more, storeCheck_verify verify, storeInBuffer_eq owner lowest, ← hbytes, stored_updPart part]

variable {r : RegionId} (region : (s.slot i).region = some r) (last : p.readsOut = 1)
include region last

/-- At the last read of a FULL part the block is held against the tag's guard. -/
theorem readOk_full_last {tg : Tag} {block : List Byte} (full : p.mode = some .full) (tag : p.tag = some tg)
    (hblock : block = bytes.take (s.region r).blockSize) :
    readOk i k n p data s = reportRead i p.block (dataEvaluation tg block) tg block ((s.stored i k b bytes).withPart i k
      (Part.guardChecked (s.region r).readAction (dataEvaluation tg block) block { p with readsOut := 0 })) := by
  have ofRegion : ((s.stored i k b bytes).withPart i k { p with readsOut := 0 }).slotRegion i = s.region r :=
    withPart_slotRegion (s := s.stored i k b bytes) region k _
  have read : bufferBlock ((s.stored i k b bytes).withPart i k { p with readsOut := 0 }) i k (s.region r).blockSize = block :=
    (bufferBlock_stored lowest bytes _).trans hblock.symm
  rw [readOk, if_neg sofar, if_pos last, storeRead_full full, storeInBuffer_eq owner lowest, ← hbytes, stored_updPart part,
    finishReadPart_full full tag, readGuardCheck, ofRegion, read, withPart_updPart (s := s.stored i k b bytes) part]

/-- A VERIFY part at its last read, in a region without GUARD. -/
theorem checkOk_verify_unguarded (verify : p.path = some .verify) (guard : (s.region r).checkSet.guard = false) :
    checkOk i k n p data s = (s.stored i k b bytes).withPart i k { p with phase := .checked, readsOut := 0 } := by
  have unguarded : (((s.stored i k b bytes).withPart i k { p with readsOut := 0 }).slotRegion i).checkSet.guard = false := by
    rw [withPart_slotRegion (s := s.stored i k b bytes) region]
    exact guard
  rw [checkOk, if_neg sofar, if_pos last, storeCheck_verify verify, storeInBuffer_eq owner lowest, ← hbytes, stored_updPart part,
    finishCheckPart_unguarded unguarded, withPart_updPart (s := s.stored i k b bytes) part]

/-- With GUARD the block is held against the tag's guard. -/
theorem checkOk_verify_guarded {tg : Tag} {block : List Byte} (verify : p.path = some .verify)
    (guard : (s.region r).checkSet.guard = true) (tag : p.tag = some tg) (hblock : block = bytes.take (s.region r).blockSize) :
    checkOk i k n p data s = verifyGuardCheck i k p tg block
      ((s.stored i k b bytes).withPart i k { p with readsOut := 0 }) := by
  have ofRegion : ((s.stored i k b bytes).withPart i k { p with readsOut := 0 }).slotRegion i = s.region r :=
    withPart_slotRegion (s := s.stored i k b bytes) region k _
  have read : bufferBlock ((s.stored i k b bytes).withPart i k { p with readsOut := 0 }) i k (s.region r).blockSize = block :=
    (bufferBlock_stored lowest bytes _).trans hblock.symm
  rw [checkOk, if_neg sofar, if_pos last, storeCheck_verify verify, storeInBuffer_eq owner lowest, ← hbytes, stored_updPart part,
    finishCheckPart_guarded verify tag (by rw [ofRegion]; exact guard), ofRegion, read]
end
end

section
variable {s : State} {i : SlotId} {k : Nat} {p x : Part} {tg : Tag} {block : List Byte} (part : (s.slot i).parts[k]? = some p)
include part

theorem verifyGuardCheck_sound (agrees : crc block = tg.guard) :
    verifyGuardCheck i k p tg block (s.withPart i k x) = s.withPart i k { x with verdict := some .sound, phase := .checked } := by
  rw [verifyGuardCheck, dataEvaluation_sound agrees, if_neg (by decide)]
  exact withPart_updPart part _ _

theorem verifyGuardCheck_corrupt (differs : crc block ≠ tg.guard) :
    verifyGuardCheck i k p tg block (s.withPart i k x) = reportWrite i p.block .corrupt tg block
      (s.withPart i k { x with verdict := some .corrupt, outcome := .checkFail, phase := .refused }) := by
  rw [verifyGuardCheck, dataEvaluation_corrupt differs, if_pos rfl, withPart_updPart part]
end

/-! ## The end of a read (R67, R68) -/

section
variable {s : State} {i : SlotId}

theorem endReadIfDone_answers (done : ∀ p ∈ (s.slot i).parts, p.phase = .done) (here : (s.slot i).abandoned = false) {st : Status}
    {po : Bool} (answers : (s.slot i).answers st) (poison : po = true ↔ ∃ p ∈ (s.slot i).parts, p.poison = true) :
    endReadIfDone i s = respond i st po
      (if st = .okay then (s.slot i).parts.flatMap (·.data) else List.replicate (s.slot i).length 0) (releaseOp (.slot i) s) := by
  have poisoned : (s.slot i).parts.any (·.poison) = po := by rw [Bool.eq_iff_iff, List.any_eq_true, poison]
  rw [endReadIfDone, if_pos (all_phase_iff.mpr done), endOp_answers here, status_of_answers answers, poisoned]

/-- A read whose one part is DONE without a failure is answered with its bytes. -/
theorem endReadIfDone_lone {p x : Part} (parts : (s.slot i).parts = [p]) (here : (s.slot i).abandoned = false)
    (done : x.phase = .done) (okay : x.outcome = .okay) :
    endReadIfDone i (s.withPart i 0 x) = respond i .okay x.poison x.data (releaseOp (.slot i)
      { s with tu := { s.tu with slots := vset s.tu.slots i { s.slot i with parts := [x] } } }) := by
  have replaced : s.withPart i 0 x = { s with tu := { s.tu with slots := vset s.tu.slots i { s.slot i with parts := [x] } } } := by
    rw [State.withPart, parts]
    rfl
  have slot : (s.withPart i 0 x).slot i = { s.slot i with parts := [x] } := by
    rw [replaced]
    exact vget_vset_same ..
  rw [endReadIfDone_answers (st := .okay) (po := x.poison) (by simp [slot, done]) (by rw [slot]; exact here)
    (by simp [slot, Slot.answers, okay]) (by simp [slot]), slot, if_pos rfl, List.flatMap_singleton, replaced]
end

end Sys2Proof.Machine
end

section
/-! PROOFS. The decision of a write (R82): where it waits, the refusal (R89), and the commit with the merged bytes, the new tags and
the DATA_WRITEs (R20, R83 to R85). -/

namespace Sys2Proof.Machine

/-! ## The decision (R82) -/

section
variable {s : State} {i : SlotId}

theorem any_checking_iff {ps : List Part} :
    ps.any (fun p => p.phase == .lookup || p.phase == .reading) = true ↔ ∃ p ∈ ps, p.phase = .lookup ∨ p.phase = .reading := by
  simp only [List.any_eq_true, Bool.or_eq_true, beq_iff_eq]

theorem decideWrite_checking (h : ∃ p ∈ (s.slot i).parts, p.phase = .lookup ∨ p.phase = .reading) : decideWrite i s = s :=
  if_pos (any_checking_iff.mpr h)

theorem decideWrite_unchecked (sound : ∀ p ∈ (s.slot i).parts, p.phase ≠ .refused) (h : ∃ p ∈ (s.slot i).parts, p.phase ≠ .checked) :
    decideWrite i s = s := by
  have noneRefused : ¬ (s.slot i).parts.any (·.phase == .refused) = true := fun some =>
    let ⟨p, hp, refused⟩ := any_phase_iff.mp some
    sound p hp refused
  have notAll : ¬ (s.slot i).parts.all (·.phase == .checked) = true := fun all =>
    let ⟨p, hp, other⟩ := h
    other (all_phase_iff.mp all p hp)
  unfold decideWrite
  rw [if_neg noneRefused, if_neg notAll, ite_self]

theorem decideWrite_refused (checked : ∀ p ∈ (s.slot i).parts, p.phase ≠ .lookup ∧ p.phase ≠ .reading)
    (refused : ∃ p ∈ (s.slot i).parts, p.phase = .refused) : decideWrite i s = endWrite i s := by
  have noneChecking : ¬ (s.slot i).parts.any (fun p => p.phase == .lookup || p.phase == .reading) = true := fun some =>
    let ⟨p, hp, checking⟩ := any_checking_iff.mp some
    checking.elim (checked p hp).1 (checked p hp).2
  exact (if_neg noneChecking).trans (if_pos (any_phase_iff.mpr refused))

theorem decideWrite_commits (checked : ∀ p ∈ (s.slot i).parts, p.phase = .checked) : decideWrite i s = commitWrite i s := by
  have noneChecking : ¬ (s.slot i).parts.any (fun p => p.phase == .lookup || p.phase == .reading) = true := fun some => by
    obtain ⟨p, hp, checking⟩ := any_checking_iff.mp some
    rw [checked p hp] at checking
    exact checking.elim nofun nofun
  have noneRefused : ¬ (s.slot i).parts.any (·.phase == .refused) = true := fun some => by
    obtain ⟨p, hp, refused⟩ := any_phase_iff.mp some
    rw [checked p hp] at refused
    cases refused
  exact (if_neg noneChecking).trans ((if_neg noneRefused).trans (if_pos (all_phase_iff.mpr checked)))

theorem endWrite_answers (here : (s.slot i).abandoned = false) {st : Status} (answers : (s.slot i).answers st) :
    endWrite i s = respond i st false [] (releaseOp (.slot i) s) := by
  rw [endWrite, status_of_answers answers]
  exact endOp_answers here ..
end

/-! ## The merged bytes placed in the buffers (R83) -/

section
variable {s : State} {i : SlotId}

/-- A part owns the buffer found for it. -/
theorem owner_of_bufferOf {o : OpenBlockTable} {k : Nat} {b : Fin 8} (h : o.bufferOf i k = some b) :
    (vget o.buffers b).owner = some (i, k) :=
  beq_iff_eq.mp (List.find?_some (p := fun c => (vget o.buffers c).owner == some (i, k)) h)

/-- Which buffer is found for a part is told by the owners alone. -/
theorem bufferOf_congr {o o' : OpenBlockTable} (h : ∀ b, (vget o'.buffers b).owner = (vget o.buffers b).owner) (k : Nat) :
    o'.bufferOf i k = o.bufferOf i k := by
  unfold OpenBlockTable.bufferOf
  exact congrArg (List.find? · _) (funext fun b => by rw [h b])

/-- Bytes stored for a part change one buffer's bytes, the one found for it. -/
theorem storeInBuffer_buffer (k off : Nat) (bytes : List Byte) (c : Fin 8) :
    vget (storeInBuffer i k off bytes s).obt.buffers c =
      if s.obt.bufferOf i k = some c then ⟨(vget s.obt.buffers c).owner, overlay off bytes (vget s.obt.buffers c).bytes⟩
      else vget s.obt.buffers c := by
  unfold storeInBuffer
  cases found : s.obt.bufferOf i k with
  | none => rfl
  | some b =>
    dsimp only
    refine (vget_vset ..).trans ?_
    by_cases same : b = c
    · subst same
      rw [if_pos rfl, if_pos rfl]
    · rw [if_neg same, if_neg (mt Option.some.inj same)]

theorem storeInBuffer_owner (k off : Nat) (bytes : List Byte) (c : Fin 8) :
    (vget (storeInBuffer i k off bytes s).obt.buffers c).owner = (vget s.obt.buffers c).owner := by
  rw [storeInBuffer_buffer]
  split <;> rfl

/-- Nothing but the buffers changes as bytes are stored. -/
theorem storeInBuffer_frame (k off : Nat) (bytes : List Byte) :
    storeInBuffer i k off bytes s = { s with obt := { s.obt with buffers := (storeInBuffer i k off bytes s).obt.buffers } } := by
  unfold storeInBuffer
  split <;> rfl

variable (s0 : State) (x : Part × Nat)

theorem storeMerged_needs (needs : x.1.path = some .blankFill ∨ x.1.path = some .verify) :
    storeMerged s0 i s x = storeInBuffer i x.2 0 (mergedBlock s0 i x.2 x.1) s := if_pos needs

theorem storeMerged_owner (c : Fin 8) : (vget (storeMerged s0 i s x).obt.buffers c).owner = (vget s.obt.buffers c).owner := by
  unfold storeMerged
  split
  · exact storeInBuffer_owner ..
  · rfl

theorem storeMerged_frame :
    storeMerged s0 i s x = { s with obt := { s.obt with buffers := (storeMerged s0 i s x).obt.buffers } } := by
  unfold storeMerged
  split
  · exact storeInBuffer_frame ..
  · rfl

theorem storeMerged_other {c : Fin 8} (other : s.obt.bufferOf i x.2 ≠ some c) :
    vget (storeMerged s0 i s x).obt.buffers c = vget s.obt.buffers c := by
  unfold storeMerged
  split
  · rw [storeInBuffer_buffer, if_neg other]
  · rfl
end

section
variable {i : SlotId} (s0 : State) (xs : List (Part × Nat))

theorem foldl_storeMerged_owner (s : State) (c : Fin 8) :
    (vget (xs.foldl (storeMerged s0 i) s).obt.buffers c).owner = (vget s.obt.buffers c).owner := by
  induction xs generalizing s with
  | nil => rfl
  | cons x xs ih => exact (ih _).trans (storeMerged_owner s0 x c)

theorem foldl_storeMerged_frame (s : State) :
    xs.foldl (storeMerged s0 i) s =
      { s with obt := { s.obt with buffers := (xs.foldl (storeMerged s0 i) s).obt.buffers } } := by
  induction xs generalizing s with
  | nil => rfl
  | cons x xs ih =>
    rw [List.foldl_cons, ih, storeMerged_frame s0 x]

/-- A buffer found for none of the parts keeps its bytes. -/
theorem foldl_storeMerged_other (s : State) {c : Fin 8} (other : ∀ x ∈ xs, s.obt.bufferOf i x.2 ≠ some c) :
    vget (xs.foldl (storeMerged s0 i) s).obt.buffers c = vget s.obt.buffers c := by
  induction xs generalizing s with
  | nil => rfl
  | cons x xs ih =>
    obtain ⟨hx, hxs⟩ := List.forall_mem_cons.mp other
    refine (ih _ fun y hy => ?_).trans (storeMerged_other s0 x hx)
    rw [bufferOf_congr (storeMerged_owner s0 x)]
    exact hxs y hy

/-- Each part's merged bytes stand in its own buffer. -/
theorem foldl_storeMerged_own (s : State) (distinct : (xs.map Prod.snd).Nodup) {x : Part × Nat} (hx : x ∈ xs) {b : Fin 8}
    (found : s.obt.bufferOf i x.2 = some b) (needs : x.1.path = some .blankFill ∨ x.1.path = some .verify) :
    vget (xs.foldl (storeMerged s0 i) s).obt.buffers b =
      ⟨(vget s.obt.buffers b).owner, overlay 0 (mergedBlock s0 i x.2 x.1) (vget s.obt.buffers b).bytes⟩ := by
  have apart {y : Part × Nat} (other : y.2 ≠ x.2) : s.obt.bufferOf i y.2 ≠ some b := fun also =>
    other (Prod.mk.inj (Option.some.inj ((owner_of_bufferOf also).symm.trans (owner_of_bufferOf found)))).2
  induction xs generalizing s with
  | nil => cases hx
  | cons y ys ih =>
    obtain ⟨fresh, distinct⟩ := List.nodup_cons.mp distinct
    rw [List.foldl_cons]
    obtain rfl | hx := List.mem_cons.mp hx
    · rw [foldl_storeMerged_other s0 ys _ fun z hz => ?_, storeMerged_needs s0 x needs, storeInBuffer_buffer, if_pos found]
      rw [bufferOf_congr (storeMerged_owner s0 x)]
      exact apart fun same => fresh (same ▸ List.mem_map_of_mem hz)
    · have other : y.2 ≠ x.2 := fun same => fresh (same ▸ List.mem_map_of_mem hx)
      have same : ∀ k, (storeMerged s0 i s y).obt.bufferOf i k = s.obt.bufferOf i k := bufferOf_congr (storeMerged_owner s0 y)
      rw [ih _ distinct hx (by rw [same]; exact found) fun other' => by rw [same]; exact apart other',
        storeMerged_other s0 y (apart other)]
end

/-! ## The commit (R83) -/

section
variable {s : State} {i : SlotId}

theorem commitWrites_work {k : Nat} {p : Part} {q : Request} (h : q ∈ commitWrites s i k p) : q.cls = .work := by
  unfold commitWrites at h
  split at h
  · obtain ⟨j, -, rfl⟩ := List.mem_map.mp h
    rfl
  · rw [List.mem_singleton.mp h]
    rfl
  · rw [List.mem_singleton.mp h]
    rfl
  · cases h
  · cases h

theorem commitWrite_eq :
    commitWrite i s = { s with
      tu := { s.tu with slots := vset s.tu.slots i { s.slot i with
        committed := true, parts := (s.slot i).indexed.map fun x => commitPart s i x.2 x.1 } }
      obt := { s.obt with buffers := ((s.slot i).indexed.foldl (storeMerged s i) s).obt.buffers }
      ma := { s.ma with workQueue := s.ma.workQueue ++ ((s.slot i).indexed.map fun x => commitWrites s i x.2 x.1).flatten } } := by
  rw [commitWrite, appendRequests_work _ _ fun q hq => ?_, List.flatMap_def, foldl_storeMerged_frame]
  · rfl
  · obtain ⟨x, -, hx⟩ := List.mem_flatMap.mp hq
    exact commitWrites_work hx

/-- The merged bytes of a part at the commit stand in its buffer. -/
theorem commitWrite_buffer {k : Nat} {p : Part} (part : (s.slot i).parts[k]? = some p) {b : Fin 8}
    (owner : (vget s.obt.buffers b).owner = some (i, k)) (lowest : ∀ c, c < b → (vget s.obt.buffers c).owner ≠ some (i, k))
    (needs : p.path = some .blankFill ∨ p.path = some .verify) :
    (vget ((s.slot i).indexed.foldl (storeMerged s i) s).obt.buffers b).bytes =
      mergedBlock s i k p ++ (vget s.obt.buffers b).bytes.drop (mergedBlock s i k p).length := by
  have distinct : ((s.slot i).indexed.map Prod.snd).Nodup := by
    rw [Slot.indexed, List.zipIdx_map_snd]
    exact List.nodup_range'
  rw [foldl_storeMerged_own s _ s distinct (x := (p, k)) (List.mem_zipIdx_iff_getElem?.mpr part) (bufferOf_some owner lowest) needs]
  simp [overlay]

/-- A buffer of no part of the slot is as it was. -/
theorem commitWrite_otherBuffer {b : Fin 8} (other : ∀ k, (vget s.obt.buffers b).owner ≠ some (i, k)) :
    vget ((s.slot i).indexed.foldl (storeMerged s i) s).obt.buffers b = vget s.obt.buffers b :=
  foldl_storeMerged_other s _ s fun x _ found => other x.2 (owner_of_bufferOf found)
end

/-! ## A part at the commit (R20, R83 to R85) -/

/-- A DATA_WRITE of a part of a slot: bytes of its block from an offset, with their enables (Tables 10-1, 10-2). -/
def State.writeOf (s : State) (i : SlotId) (r : RegionId) (k block off : Nat) (data : List Byte) (enables : List Bool) : Request where
  kind := .dataWrite
  cls := .work
  address := (s.region r).base + block * (s.region r).blockSize + off
  length := data.length
  data := data
  enables := enables
  issuer := .part i k 0
  key := ⟨some r, some block, some ((s.slot i).requester, (s.slot i).tid), none⟩
  inReset := false

theorem dataTag_eq (g : Region) (b : Nat) (guard : BitVec 32) (e : Epoch) :
    dataTag g b guard e = ⟨guard, BitVec.ofNat 16 (b + g.seed.toNat), g.label, false, e⟩ := by
  rw [dataTag, locatorOf_eq]

theorem offsetEnabled_eq {sl : Slot} {p : Part} {off : Nat} (first : p.offset ≤ off) (last : off < p.offset + p.count) :
    offsetEnabled sl p off = sl.enables.getD (p.start + (off - p.offset)) false := by
  rw [offsetEnabled, decide_eq_true first, decide_eq_true last]
  rfl

theorem commitPart_empty (s : State) (i : SlotId) (k : Nat) {p : Part} (path : p.path = some .empty) :
    commitPart s i k p = { p with phase := .done } := if_pos path

theorem commitWrites_empty (s : State) (i : SlotId) (k : Nat) {p : Part} (path : p.path = some .empty) :
    commitWrites s i k p = [] := by
  unfold commitWrites
  rw [path]

theorem commitPart_writing (s : State) (i : SlotId) (k : Nat) {p : Part} (path : p.path ≠ some .empty) {tag : Tag}
    (new : newTagOf s i k p = tag) {reqs : List Request} (writes : commitWrites s i k p = reqs) :
    commitPart s i k p = { p with phase := .writing, writesOut := reqs.length, newTag := some tag } := by
  rw [commitPart, if_neg path, new, writes]

section
variable {s : State} {i : SlotId} {r : RegionId} (region : (s.slot i).region = some r) (k : Nat) {p : Part}
include region

theorem writeRequest_part (off : Nat) (data : List Byte) (enables : List Bool) :
    writeRequestOf .dataWrite .work ((s.region r).blockAddress p.block off) data enables (.part i k 0) (partKey (s.slot i) p) =
      s.writeOf i r k p.block off data enables := by
  rw [partKey_eq region]
  rfl

theorem mergedBlock_blankFill (path : p.path = some .blankFill) :
    mergedBlock s i k p = placeBytes (enabledBytes (s.slot i) p) (List.replicate (s.region r).blockSize 0) := by
  rw [mergedBlock, if_pos path, slotRegion_eq region]

theorem mergedBlock_verify (path : p.path = some .verify) {b : Fin 8} (owner : (vget s.obt.buffers b).owner = some (i, k))
    (lowest : ∀ c, c < b → (vget s.obt.buffers c).owner ≠ some (i, k)) :
    mergedBlock s i k p =
      placeBytes (enabledBytes (s.slot i) p) ((vget s.obt.buffers b).bytes.take (s.region r).blockSize) := by
  rw [mergedBlock, if_neg (by rw [path]; decide), slotRegion_eq region, bufferBlock_eq owner lowest]

/-- The whole block is written where the part's block was blank (R84). -/
theorem commitWrites_blankFill (path : p.path = some .blankFill) :
    commitWrites s i k p = (List.range ((s.region r).blockSize / 256)).map fun j =>
      s.writeOf i r k p.block (256 * j) (slice (256 * j) 256 (mergedBlock s i k p)) (List.replicate 256 true) := by
  unfold commitWrites
  rw [path, slotRegion_eq region]
  exact List.map_congr_left fun j _ => writeRequest_part region k ..

section
variable {e : Epoch} (epoch : (s.slot i).epoch = some e)
include epoch

theorem newTagOf_merged (path : p.path ≠ some .delta) :
    newTagOf s i k p =
      ⟨crc (mergedBlock s i k p), BitVec.ofNat 16 (p.block + (s.region r).seed.toNat), (s.region r).label, false, e⟩ := by
  rw [newTagOf, newGuard, if_neg path, dataTag_eq, slotRegion_eq region, Slot.captured_eq epoch]

theorem newTagOf_delta (path : p.path = some .delta) {t : Tag} (tag : p.tag = some t) {lo hi : Nat} (span : p.span = some (lo, hi)) :
    newTagOf s i k p =
      ⟨deltaGuard t.guard (s.region r).blockSize
        ((enabledBytes (s.slot i) p).map fun x => (x.1, p.oldSpan.getD (x.1 - lo) 0)) (enabledBytes (s.slot i) p),
        BitVec.ofNat 16 (p.block + (s.region r).seed.toNat), (s.region r).label, false, e⟩ := by
  rw [newTagOf, newGuard, if_pos path, dataTag_eq, slotRegion_eq region, Slot.captured_eq epoch, Part.storedGuard, tag, oldEnabled,
    span]
  rfl
end

section
variable {lo hi : Nat} (span : p.span = some (lo, hi)) (first : p.offset ≤ lo) (order : lo ≤ hi) (last : hi < p.offset + p.count)
  {en : Nat → Bool} (hen : ∀ j, en j = (s.slot i).enables.getD (p.start + (j - p.offset)) false)
include span first order last hen

/-- The enabled span is written: the request's bytes where enabled, the old ones elsewhere (R85). -/
theorem spanWrite_eq (old : Nat → Byte)
    (hold : ∀ j, (if p.path = some .delta then p.oldSpan.getD (lo + j - lo) 0
      else (bufferBlock s i k (s.region r).blockSize).getD (lo + j) 0) = old j) :
    spanWrite s i k p = s.writeOf i r k p.block lo
      ((List.range (hi - lo + 1)).map fun j =>
        if en (lo + j) then (s.slot i).data.getD (p.start + (lo + j - p.offset)) 0 else old j)
      ((List.range (hi - lo + 1)).map fun j => en (lo + j)) := by
  have enabled : ∀ j ∈ List.range (hi - lo + 1), offsetEnabled (s.slot i) p (lo + j) = en (lo + j) := fun j hj => by
    have inSpan := List.mem_range.mp hj
    rw [offsetEnabled_eq (by omega) (by omega), hen]
  have bytes : (spanOffsets (lo, hi)).map (spanByte s i k p lo) = (List.range (hi - lo + 1)).map fun j =>
      if en (lo + j) then (s.slot i).data.getD (p.start + (lo + j - p.offset)) 0 else old j := by
    rw [spanOffsets, List.map_map]
    refine List.map_congr_left fun j hj => ?_
    rw [Function.comp_apply, spanByte, enabled j hj, slotRegion_eq region, hold]
  have enables : (spanOffsets (lo, hi)).map (offsetEnabled (s.slot i) p) = (List.range (hi - lo + 1)).map fun j => en (lo + j) := by
    rw [spanOffsets, List.map_map]
    exact List.map_congr_left enabled
  rw [spanWrite, span, Option.getD_some, slotRegion_eq region, bytes, enables, writeRequest_part region]

theorem commitWrites_delta (path : p.path = some .delta) :
    commitWrites s i k p = [s.writeOf i r k p.block lo
      ((List.range (hi - lo + 1)).map fun j =>
        if en (lo + j) then (s.slot i).data.getD (p.start + (lo + j - p.offset)) 0 else p.oldSpan.getD j 0)
      ((List.range (hi - lo + 1)).map fun j => en (lo + j))] := by
  unfold commitWrites
  rw [path]
  refine congrArg (fun q => [q]) (spanWrite_eq region k span first order last hen (fun j => p.oldSpan.getD j 0) fun j => ?_)
  rw [if_pos path, Nat.add_sub_cancel_left]

theorem commitWrites_verify (path : p.path = some .verify) {b : Fin 8} (owner : (vget s.obt.buffers b).owner = some (i, k))
    (lowest : ∀ c, c < b → (vget s.obt.buffers c).owner ≠ some (i, k)) {old : List Byte}
    (hold : old = (vget s.obt.buffers b).bytes.take (s.region r).blockSize) :
    commitWrites s i k p = [s.writeOf i r k p.block lo
      ((List.range (hi - lo + 1)).map fun j =>
        if en (lo + j) then (s.slot i).data.getD (p.start + (lo + j - p.offset)) 0 else old.getD (lo + j) 0)
      ((List.range (hi - lo + 1)).map fun j => en (lo + j))] := by
  unfold commitWrites
  rw [path]
  refine congrArg (fun q => [q]) (spanWrite_eq region k span first order last hen (fun j => old.getD (lo + j) 0) fun j => ?_)
  rw [if_neg (by rw [path]; decide), bufferBlock_eq owner lowest, ← hold]
end
end

/-- Settles O20: a lone SPAN read from response to answer, the reads of a write's parts, the decision with the commit, the reads of a
read's parts, and the end of a read. -/
theorem spanReadIsAnsweredWithItsBytes : Obligations.SpanReadIsAnsweredWithItsBytes := by
  refine ⟨fun s t q data i n p porst inFlight request kind length issuer read here parts reading span last sofar => ?_,
    fun s u t q ok data i k n p porst inFlight request issuer write here part kind hu => ⟨?_, ?_, ?_, ?_⟩,
    fun s i => ⟨?_, fun checked refused here st answers => ?_, fun r e region epoch checked => ?_⟩,
    fun s u t q ok data i k n p r porst inFlight request issuer read here part kind region hu => ⟨?_, ?_, ?_, ?_⟩,
    fun s i => ⟨fun waits => ?_, fun done here st po answers poison => endReadIfDone_answers done here answers poison⟩⟩
  · have part : (s.slot i).parts[0]? = some p := by rw [parts]; rfl
    rw [exec_readOk part porst inFlight request issuer kind here read length,
      readOk_span (s := s.setDownTag t .powerOn) part data (by rw [sofar]; decide) span last,
      endReadIfDone_lone (s := s.setDownTag t .powerOn) parts here (by exact rfl) (by exact sofar)]
    rfl
  · rintro rfl length failed
    subst hu
    rw [exec_checkOk part porst inFlight request issuer kind here write length,
      checkOk_dropped (s := s.setDownTag t .powerOn) part data failed]
    rfl
  · rintro rfl length sofar more verify b owner lowest
    subst hu
    rw [exec_checkOk part porst inFlight request issuer kind here write length,
      checkOk_verify_more (s := s.setDownTag t .powerOn) part data sofar owner lowest rfl verify more]
    rfl
  · rintro rfl length sofar last
    subst hu
    rw [exec_checkOk part porst inFlight request issuer kind here write length]
    refine ⟨fun delta => ?_, fun r b bytes verify region owner lowest hbytes =>
      ⟨fun guard => ?_, fun tg guard tag => ⟨fun agrees => ?_, fun e epoch differs => ?_⟩⟩⟩
    · rw [checkOk_delta (s := s.setDownTag t .powerOn) part data sofar delta last]
      rfl
    · rw [checkOk_verify_unguarded (s := s.setDownTag t .powerOn) part data sofar owner lowest hbytes region last verify guard]
      rfl
    · rw [checkOk_verify_guarded (s := s.setDownTag t .powerOn) (block := bytes.take (s.region r).blockSize) part data sofar owner
          lowest hbytes region last verify guard tag rfl,
        verifyGuardCheck_sound (s := (s.setDownTag t .powerOn).stored i k b bytes) part agrees]
      rfl
    · rw [checkOk_verify_guarded (s := s.setDownTag t .powerOn) (block := bytes.take (s.region r).blockSize) part data sofar owner
          lowest hbytes region last verify guard tag rfl,
        verifyGuardCheck_corrupt (s := (s.setDownTag t .powerOn).stored i k b bytes) part differs,
        reportWrite_withPart (s := (s.setDownTag t .powerOn).stored i k b bytes) k _ _ tg _ region epoch rfl]
      rfl
  · rintro r rfl region
    subst hu
    rw [exec_checkError part porst inFlight request issuer kind here write,
      postPartFault_updPart (s := s.setDownTag t .powerOn) part region _ fun _ => rfl]
    rfl
  · rintro (checking | ⟨sound, unchecked⟩)
    · exact decideWrite_checking checking
    · exact decideWrite_unchecked sound unchecked
  · rw [decideWrite_refused checked refused, endWrite_answers here answers]
  · refine ⟨_, _, _, (decideWrite_commits checked).trans commitWrite_eq, Slot.indexed_map_length _ _, Slot.indexed_map_length _ _,
      foldl_storeMerged_owner _ _ _, fun b => commitWrite_otherBuffer, fun k p part => ?_⟩
    rw [Slot.indexed_map_get part, Slot.indexed_map_get part]
    refine ⟨fun path => ⟨congrArg some (commitPart_empty s i k path), congrArg some (commitWrites_empty s i k path)⟩,
      fun lo hi en new tag w span first order last hen hnew htag hw => ?_⟩
    obtain rfl : new = enabledBytes (s.slot i) p := hnew
    obtain rfl : w = s.writeOf i r k p.block := by
      funext off data enables
      exact hw off data enables
    refine ⟨fun path t given => ?_, fun b old merged owner lowest hold => ⟨fun path hmerged => ?_, fun path hmerged => ?_⟩⟩
    · have writes := commitWrites_delta region k span first order last hen path
      have formed := (newTagOf_delta region k epoch path given span).trans (htag _).symm
      exact ⟨congrArg some (commitPart_writing s i k (by rw [path]; decide) formed writes), congrArg some writes⟩
    · obtain rfl : merged = mergedBlock s i k p := by rw [mergedBlock_verify region k path owner lowest, hmerged, hold]
      have writes := commitWrites_verify region k span first order last hen path owner lowest hold
      have formed := (newTagOf_merged region k epoch (by rw [path]; decide)).trans (htag _).symm
      exact ⟨commitWrite_buffer part owner lowest (.inr path),
        congrArg some (commitPart_writing s i k (by rw [path]; decide) formed writes), congrArg some writes⟩
    · obtain rfl : merged = mergedBlock s i k p := by rw [mergedBlock_blankFill region k path, hmerged]
      have writes := commitWrites_blankFill region k path
      have formed := (newTagOf_merged region k epoch (by rw [path]; decide)).trans (htag _).symm
      refine ⟨commitWrite_buffer part owner lowest (.inl path),
        congrArg some ((commitPart_writing s i k (by rw [path]; decide) formed writes).trans ?_), congrArg some writes⟩
      rw [List.length_map, List.length_range]
  · rintro rfl length failed
    subst hu
    rw [exec_readOk part porst inFlight request issuer kind here read length,
      readOk_dropped (s := s.setDownTag t .powerOn) part data failed]
    rfl
  · rintro rfl length sofar span last
    subst hu
    rw [exec_readOk part porst inFlight request issuer kind here read length,
      readOk_span (s := s.setDownTag t .powerOn) part data sofar span last]
    rfl
  · rintro rfl length sofar full b bytes block owner lowest hbytes hblock
    subst hu
    rw [exec_readOk part porst inFlight request issuer kind here read length]
    refine ⟨fun more => ?_, fun tg last tag => ⟨fun agrees => ?_, fun e p' epoch differs fail poison report => ?_⟩⟩
    · rw [readOk_full_more (s := s.setDownTag t .powerOn) part data sofar owner lowest hbytes full more]
      rfl
    · rw [readOk_full_last (s := s.setDownTag t .powerOn) part data sofar owner lowest hbytes region last full tag hblock,
        dataEvaluation_sound agrees, reportRead_none _ _ _ rfl, guardChecked_sound]
      rfl
    · rw [readOk_full_last (s := s.setDownTag t .powerOn) part data sofar owner lowest hbytes region last full tag hblock,
        dataEvaluation_corrupt differs, guardChecked_corrupt fail poison report,
        reportRead_withPart (s := (s.setDownTag t .powerOn).stored i k b bytes) k _ _ tg _ region epoch rfl]
      rfl
  · rintro rfl
    subst hu
    rw [exec_readError part porst inFlight request issuer kind here read,
      postPartFault_updPart (s := s.setDownTag t .powerOn) part region _ fun _ => rfl]
    rfl
  · exact if_neg fun all => let ⟨p, hp, other⟩ := waits; other (all_phase_iff.mp all p hp)

end Sys2Proof.Machine
end
